-- ==== Sys2Proof/Word.lean ====
section
/-! DEFINITION. The machine's word types (R6, R7: every value is an unsigned number of a stated width). -/

namespace Sys2Proof

/-- One byte: a V register, a timer, a byte of memory (R20, R26, R27, R60). -/
abbrev Byte := BitVec 8

/-- A 16-bit word: an instruction word, PC, I, an entry of the call stack (R22, R23, R25, R90). -/
abbrev Word := BitVec 16

/-- A 4-bit field of an instruction word (R91); as x or y it is the number of a V register (R20). -/
abbrev Nibble := BitVec 4

/-- The number of a general register, 0x0..0xF (R20). -/
abbrev Reg := Nibble

/-- The 12-bit address literal nnn of an instruction word (R91). -/
abbrev Addr := BitVec 12

/-- The flag register VF is the general register of index 0xF (R21). -/
abbrev vF : Reg := 0xF#4

end Sys2Proof
end

