-- ==== Sys2Proof/Machine/Flags.lean ====
section
/-! DEFINITION. Every flag computation of 42_alu.md: the pairs of R150 and the bits a shift moves out. A flag is a byte 0 or 1 in VF (R21). -/

namespace Sys2Proof.Machine

/-- A flag as VF holds it: 1 or 0 (R7, R150). -/
def flagByte (b : Bool) : Byte := if b then 1#8 else 0#8

/-- The overflowing add: the sum on naturals, wrapped modulo 256, and whether it passed 255 (R150, R166). -/
def overflowingAdd (a b : Byte) : Byte × Bool :=
  (BitVec.ofNat 8 (a.toNat + b.toNat), decide (a.toNat + b.toNat > 255))

/-- The overflowing subtraction a - b: the difference modulo 256, and whether it borrowed (R150, R167, R169). -/
def overflowingSub (a b : Byte) : Byte × Bool :=
  (BitVec.ofNat 8 (256 + a.toNat - b.toNat), decide (a.toNat < b.toNat))

/-- Bit 0 before a right shift, as a byte: `v & 1` (R168). -/
def lsbOut (v : Byte) : Byte := v &&& 1#8

/-- Bit 7 before a left shift, as a byte: `(v >> 7) & 1` (R170). -/
def msbOut (v : Byte) : Byte := (v >>> 7) &&& 1#8

end Sys2Proof.Machine
end

