-- ==== Sys2Proof/Syntax.lean ====
section
/-! DEFINITION. The 35 instructions of the opcode map (30_encoding.md R93), one constructor a row, in the map's order. -/

namespace Sys2Proof

/-- An instruction with its operand fields (R91, R92). Every field has exactly the width R91 gives it, so every term is
encodable. SHR and SHL keep their y field, which the hardware decodes and ignores (R92). -/
inductive Instr where
  /-- `0000` NOP (R140) -/
  | nop
  /-- `00E0` CLS (R200) -/
  | cls
  /-- `00EE` RET (R142) -/
  | ret
  /-- `1nnn` JP addr (R143) -/
  | jp (nnn : Addr)
  /-- `2nnn` CALL addr (R144) -/
  | call (nnn : Addr)
  /-- `3xkk` SE Vx, byte (R145) -/
  | seByte (x : Reg) (kk : Byte)
  /-- `4xkk` SNE Vx, byte (R146) -/
  | sneByte (x : Reg) (kk : Byte)
  /-- `5xy0` SE Vx, Vy (R147) -/
  | seReg (x y : Reg)
  /-- `6xkk` LD Vx, byte (R160) -/
  | ldByte (x : Reg) (kk : Byte)
  /-- `7xkk` ADD Vx, byte (R161) -/
  | addByte (x : Reg) (kk : Byte)
  /-- `8xy0` LD Vx, Vy (R162) -/
  | ldReg (x y : Reg)
  /-- `8xy1` OR Vx, Vy (R163) -/
  | orReg (x y : Reg)
  /-- `8xy2` AND Vx, Vy (R164) -/
  | andReg (x y : Reg)
  /-- `8xy3` XOR Vx, Vy (R165) -/
  | xorReg (x y : Reg)
  /-- `8xy4` ADD Vx, Vy (R166) -/
  | addReg (x y : Reg)
  /-- `8xy5` SUB Vx, Vy (R167) -/
  | sub (x y : Reg)
  /-- `8xy6` SHR Vx, the y field ignored (R168) -/
  | shr (x y : Reg)
  /-- `8xy7` SUBN Vx, Vy (R169) -/
  | subn (x y : Reg)
  /-- `8xyE` SHL Vx, the y field ignored (R170) -/
  | shl (x y : Reg)
  /-- `9xy0` SNE Vx, Vy (R148) -/
  | sneReg (x y : Reg)
  /-- `Annn` LD I, addr (R180) -/
  | ldI (nnn : Addr)
  /-- `Bnnn` JP V0, addr (R149) -/
  | jpV0 (nnn : Addr)
  /-- `Cxkk` RND Vx, byte (R171) -/
  | rnd (x : Reg) (kk : Byte)
  /-- `Dxyn` DRW Vx, Vy, nibble (R201) -/
  | drw (x y : Reg) (n : Nibble)
  /-- `Ex9E` SKP Vx (R220) -/
  | skp (x : Reg)
  /-- `ExA1` SKNP Vx (R221) -/
  | sknp (x : Reg)
  /-- `Fx07` LD Vx, DT (R224) -/
  | ldVxDT (x : Reg)
  /-- `Fx0A` LD Vx, K (R225) -/
  | ldVxK (x : Reg)
  /-- `Fx15` LD DT, Vx (R226) -/
  | ldDT (x : Reg)
  /-- `Fx18` LD ST, Vx (R227) -/
  | ldST (x : Reg)
  /-- `Fx1E` ADD I, Vx (R182) -/
  | addI (x : Reg)
  /-- `Fx29` LD F, Vx (R183) -/
  | ldF (x : Reg)
  /-- `Fx33` LD B, Vx (R184) -/
  | ldB (x : Reg)
  /-- `Fx55` LD [I], Vx (R185) -/
  | ldStore (x : Reg)
  /-- `Fx65` LD Vx, [I] (R186) -/
  | ldLoad (x : Reg)
  deriving DecidableEq, Repr

end Sys2Proof
end

