-- ==== Sys2Proof/WellFormed.lean ====
section
/-! DEFINITION. Which words are legal: the opcode map of 30_encoding.md R93, row for row as match and mask. The check
is made on WORDS: an `Instr` is well formed by its type, since each of its fields has exactly the width R91 gives it, and
what can be ill formed is the word a program holds. The decoder (Decode.lean) is written apart from this table, by the
nibbles of R95, and the two are proved to agree. -/

namespace Sys2Proof

/-- One row of the opcode map: a word belongs to it iff `word && mask = pattern` (R93). -/
structure OpRow where
  /-- the column "match" of R93 -/
  pattern : Word
  /-- the column "mask" of R93 -/
  mask : Word
  /-- the row's mnemonic as spec/opcode_table.json spells it -/
  mnemonic : String
  deriving DecidableEq, Repr

/-- The word is an instance of the row (R93). -/
def OpRow.covers (r : OpRow) (w : Word) : Bool := w &&& r.mask == r.pattern

/-- Rows 1 to 10 of R93: major nibbles 0 to 7. -/
def opcodeMapLow : List OpRow := [
  ⟨0x0000#16, 0xFFFF#16, "NOP"⟩,
  ⟨0x00E0#16, 0xFFFF#16, "CLS"⟩,
  ⟨0x00EE#16, 0xFFFF#16, "RET"⟩,
  ⟨0x1000#16, 0xF000#16, "JP_addr"⟩,
  ⟨0x2000#16, 0xF000#16, "CALL_addr"⟩,
  ⟨0x3000#16, 0xF000#16, "SE_Vx__byte"⟩,
  ⟨0x4000#16, 0xF000#16, "SNE_Vx__byte"⟩,
  ⟨0x5000#16, 0xF00F#16, "SE_Vx__Vy"⟩,
  ⟨0x6000#16, 0xF000#16, "LD_Vx__byte"⟩,
  ⟨0x7000#16, 0xF000#16, "ADD_Vx__byte"⟩]

/-- Rows 11 to 20 of R93: major nibbles 8 and 9. -/
def opcodeMapMid : List OpRow := [
  ⟨0x8000#16, 0xF00F#16, "LD_Vx__Vy"⟩,
  ⟨0x8001#16, 0xF00F#16, "OR_Vx__Vy"⟩,
  ⟨0x8002#16, 0xF00F#16, "AND_Vx__Vy"⟩,
  ⟨0x8003#16, 0xF00F#16, "XOR_Vx__Vy"⟩,
  ⟨0x8004#16, 0xF00F#16, "ADD_Vx__Vy"⟩,
  ⟨0x8005#16, 0xF00F#16, "SUB_Vx__Vy"⟩,
  ⟨0x8006#16, 0xF00F#16, "SHR_Vx____Vy"⟩,
  ⟨0x8007#16, 0xF00F#16, "SUBN_Vx__Vy"⟩,
  ⟨0x800E#16, 0xF00F#16, "SHL_Vx____Vy"⟩,
  ⟨0x9000#16, 0xF00F#16, "SNE_Vx__Vy"⟩]

/-- Rows 21 to 35 of R93: major nibbles A to F. -/
def opcodeMapHigh : List OpRow := [
  ⟨0xA000#16, 0xF000#16, "LD_I__addr"⟩,
  ⟨0xB000#16, 0xF000#16, "JP_V0__addr"⟩,
  ⟨0xC000#16, 0xF000#16, "RND_Vx__byte"⟩,
  ⟨0xD000#16, 0xF000#16, "DRW_Vx__Vy__nibble"⟩,
  ⟨0xE09E#16, 0xF0FF#16, "SKP_Vx"⟩,
  ⟨0xE0A1#16, 0xF0FF#16, "SKNP_Vx"⟩,
  ⟨0xF007#16, 0xF0FF#16, "LD_Vx__DT"⟩,
  ⟨0xF00A#16, 0xF0FF#16, "LD_Vx__K"⟩,
  ⟨0xF015#16, 0xF0FF#16, "LD_DT__Vx"⟩,
  ⟨0xF018#16, 0xF0FF#16, "LD_ST__Vx"⟩,
  ⟨0xF01E#16, 0xF0FF#16, "ADD_I__Vx"⟩,
  ⟨0xF029#16, 0xF0FF#16, "LD_F__Vx"⟩,
  ⟨0xF033#16, 0xF0FF#16, "LD_B__Vx"⟩,
  ⟨0xF055#16, 0xF0FF#16, "LD__I___Vx"⟩,
  ⟨0xF065#16, 0xF0FF#16, "LD_Vx___I"⟩]

/-- The complete table of legal words: 35 rows (R93). -/
def opcodeMap : List OpRow := opcodeMapLow ++ opcodeMapMid ++ opcodeMapHigh

/-- A word is legal iff it matches exactly one row (R93); every other word is illegal (R94). -/
def wordLegal (w : Word) : Bool := (opcodeMap.filter fun r => r.covers w).length == 1

/-- The number of an instruction's row in `opcodeMap`, counted from 0 (R93 counts from 1). -/
def Instr.row : Instr → Nat
  | .nop => 0
  | .cls => 1
  | .ret => 2
  | .jp _ => 3
  | .call _ => 4
  | .seByte _ _ => 5
  | .sneByte _ _ => 6
  | .seReg _ _ => 7
  | .ldByte _ _ => 8
  | .addByte _ _ => 9
  | .ldReg _ _ => 10
  | .orReg _ _ => 11
  | .andReg _ _ => 12
  | .xorReg _ _ => 13
  | .addReg _ _ => 14
  | .sub _ _ => 15
  | .shr _ _ => 16
  | .subn _ _ => 17
  | .shl _ _ => 18
  | .sneReg _ _ => 19
  | .ldI _ => 20
  | .jpV0 _ => 21
  | .rnd _ _ => 22
  | .drw _ _ _ => 23
  | .skp _ => 24
  | .sknp _ => 25
  | .ldVxDT _ => 26
  | .ldVxK _ => 27
  | .ldDT _ => 28
  | .ldST _ => 29
  | .addI _ => 30
  | .ldF _ => 31
  | .ldB _ => 32
  | .ldStore _ => 33
  | .ldLoad _ => 34

end Sys2Proof
end

