-- ==== Sys2Proof/Decode.lean ====
section
/-! DEFINITION. Decoding (R90, R91, R95, R124): a total function from words, and from bytes, to the 35 instructions or a
rejection by name; and, after it, the encoder, written from the formats of R92. -/

namespace Sys2Proof

/-! ## The fields of a word (R91) -/

/-- n1, the major nibble op[15:12]. -/
def Word.n1 (w : Word) : Nibble := w.extractLsb' 12 4
/-- x = n2 = op[11:8]. -/
def Word.x (w : Word) : Reg := w.extractLsb' 8 4
/-- y = n3 = op[7:4]. -/
def Word.y (w : Word) : Reg := w.extractLsb' 4 4
/-- n = n4 = op[3:0]. -/
def Word.n (w : Word) : Nibble := w.extractLsb' 0 4
/-- kk = op[7:0]. -/
def Word.kk (w : Word) : Byte := w.extractLsb' 0 8
/-- nnn = op[11:0]. -/
def Word.nnn (w : Word) : Addr := w.extractLsb' 0 12

/-- Big-endian assembly of an instruction word: the byte at the lower address is bits 15..8 (R66). -/
def Word.ofBytes (hi lo : Byte) : Word := hi ++ lo
/-- The byte of a word that stands at the lower address (R66). -/
def Word.hi (w : Word) : Byte := w.extractLsb' 8 8
/-- The byte of a word that stands at the higher address (R66). -/
def Word.lo (w : Word) : Byte := w.extractLsb' 0 8

/-! ## The decoder -/

/-- Group 0: only the three fixed words of format Z are legal (R94, R95). -/
def decodeGroup0 (w : Word) : Option Instr :=
  if w = 0x0000#16 then some .nop
  else if w = 0x00E0#16 then some .cls
  else if w = 0x00EE#16 then some .ret
  else none

/-- Group 8: the last nibble selects the operation; 8..D and F are illegal (R94, R95). -/
def decodeGroup8 (x y : Reg) (n : Nibble) : Option Instr :=
  if n = 0x0#4 then some (.ldReg x y)
  else if n = 0x1#4 then some (.orReg x y)
  else if n = 0x2#4 then some (.andReg x y)
  else if n = 0x3#4 then some (.xorReg x y)
  else if n = 0x4#4 then some (.addReg x y)
  else if n = 0x5#4 then some (.sub x y)
  else if n = 0x6#4 then some (.shr x y)
  else if n = 0x7#4 then some (.subn x y)
  else if n = 0xE#4 then some (.shl x y)
  else none

/-- Group E: the low byte selects SKP or SKNP (R94, R95). -/
def decodeGroupE (x : Reg) (kk : Byte) : Option Instr :=
  if kk = 0x9E#8 then some (.skp x)
  else if kk = 0xA1#8 then some (.sknp x)
  else none

/-- Group F: the low byte selects one of nine instructions (R94, R95). -/
def decodeGroupF (x : Reg) (kk : Byte) : Option Instr :=
  if kk = 0x07#8 then some (.ldVxDT x)
  else if kk = 0x0A#8 then some (.ldVxK x)
  else if kk = 0x15#8 then some (.ldDT x)
  else if kk = 0x18#8 then some (.ldST x)
  else if kk = 0x1E#8 then some (.addI x)
  else if kk = 0x29#8 then some (.ldF x)
  else if kk = 0x33#8 then some (.ldB x)
  else if kk = 0x55#8 then some (.ldStore x)
  else if kk = 0x65#8 then some (.ldLoad x)
  else none

/-- `decode(op)` of R124: the major nibble selects a group, the remaining fixed nibbles the row (R95); `none` is the
illegal outcome, an UnimplementedOpcodeError (R94). It reads nothing but the word. -/
def decode (w : Word) : Option Instr :=
  if w.n1 = 0x0#4 then decodeGroup0 w
  else if w.n1 = 0x1#4 then some (.jp w.nnn)
  else if w.n1 = 0x2#4 then some (.call w.nnn)
  else if w.n1 = 0x3#4 then some (.seByte w.x w.kk)
  else if w.n1 = 0x4#4 then some (.sneByte w.x w.kk)
  else if w.n1 = 0x5#4 then (if w.n = 0x0#4 then some (.seReg w.x w.y) else none)
  else if w.n1 = 0x6#4 then some (.ldByte w.x w.kk)
  else if w.n1 = 0x7#4 then some (.addByte w.x w.kk)
  else if w.n1 = 0x8#4 then decodeGroup8 w.x w.y w.n
  else if w.n1 = 0x9#4 then (if w.n = 0x0#4 then some (.sneReg w.x w.y) else none)
  else if w.n1 = 0xA#4 then some (.ldI w.nnn)
  else if w.n1 = 0xB#4 then some (.jpV0 w.nnn)
  else if w.n1 = 0xC#4 then some (.rnd w.x w.kk)
  else if w.n1 = 0xD#4 then some (.drw w.x w.y w.n)
  else if w.n1 = 0xE#4 then decodeGroupE w.x w.kk
  else decodeGroupF w.x w.kk

/-- Why bytes do not decode. -/
inductive DecodeError where
  /-- fewer than the two bytes every instruction has (R90) -/
  | truncated
  /-- the word matches no row of the opcode map: UnimplementedOpcodeError (R94) -/
  | unimplementedOpcode (w : Word)
  deriving DecidableEq, Repr

/-- Decoding on any bytes: the first two bytes, high byte first, are one instruction word (R66, R90); answers the
instruction with the bytes that follow it, or the rejection by name. -/
def decodeBytes : List Byte → Except DecodeError (Instr × List Byte)
  | hi :: lo :: rest =>
    match decode (Word.ofBytes hi lo) with
    | some i => .ok (i, rest)
    | none => .error (.unimplementedOpcode (Word.ofBytes hi lo))
  | _ => .error .truncated

/-! ## The encoder (the formats of R92) -/

/-- Format A: n1 nnn. -/
def encodeA (n1 : Nibble) (nnn : Addr) : Word := n1 ++ nnn
/-- Formats XK and X: n1 x kk, where format X fixes the low byte. -/
def encodeXK (n1 : Nibble) (x : Reg) (kk : Byte) : Word := (n1 ++ x) ++ kk
/-- Formats XY and XYN: n1 x y n4, where format XY fixes the last nibble. -/
def encodeXYN (n1 : Nibble) (x y : Reg) (n4 : Nibble) : Word := (n1 ++ x) ++ (y ++ n4)

/-- The word of an instruction: its row's fixed nibbles and its fields (R92, R93). -/
def encode : Instr → Word
  | .nop => 0x0000#16
  | .cls => 0x00E0#16
  | .ret => 0x00EE#16
  | .jp nnn => encodeA 0x1#4 nnn
  | .call nnn => encodeA 0x2#4 nnn
  | .seByte x kk => encodeXK 0x3#4 x kk
  | .sneByte x kk => encodeXK 0x4#4 x kk
  | .seReg x y => encodeXYN 0x5#4 x y 0x0#4
  | .ldByte x kk => encodeXK 0x6#4 x kk
  | .addByte x kk => encodeXK 0x7#4 x kk
  | .ldReg x y => encodeXYN 0x8#4 x y 0x0#4
  | .orReg x y => encodeXYN 0x8#4 x y 0x1#4
  | .andReg x y => encodeXYN 0x8#4 x y 0x2#4
  | .xorReg x y => encodeXYN 0x8#4 x y 0x3#4
  | .addReg x y => encodeXYN 0x8#4 x y 0x4#4
  | .sub x y => encodeXYN 0x8#4 x y 0x5#4
  | .shr x y => encodeXYN 0x8#4 x y 0x6#4
  | .subn x y => encodeXYN 0x8#4 x y 0x7#4
  | .shl x y => encodeXYN 0x8#4 x y 0xE#4
  | .sneReg x y => encodeXYN 0x9#4 x y 0x0#4
  | .ldI nnn => encodeA 0xA#4 nnn
  | .jpV0 nnn => encodeA 0xB#4 nnn
  | .rnd x kk => encodeXK 0xC#4 x kk
  | .drw x y n => encodeXYN 0xD#4 x y n
  | .skp x => encodeXK 0xE#4 x 0x9E#8
  | .sknp x => encodeXK 0xE#4 x 0xA1#8
  | .ldVxDT x => encodeXK 0xF#4 x 0x07#8
  | .ldVxK x => encodeXK 0xF#4 x 0x0A#8
  | .ldDT x => encodeXK 0xF#4 x 0x15#8
  | .ldST x => encodeXK 0xF#4 x 0x18#8
  | .addI x => encodeXK 0xF#4 x 0x1E#8
  | .ldF x => encodeXK 0xF#4 x 0x29#8
  | .ldB x => encodeXK 0xF#4 x 0x33#8
  | .ldStore x => encodeXK 0xF#4 x 0x55#8
  | .ldLoad x => encodeXK 0xF#4 x 0x65#8

/-- The bytes of an instruction as memory holds them, the high byte at the lower address (R66). -/
def encodeBytes (i : Instr) : List Byte := [(encode i).hi, (encode i).lo]

/-- The instruction word whose opcode-table bits are `w`: the table gives every row 16 bits; bits at and above `nbits`
are 0, and an instruction has no bit above 15 (R90). -/
def tableWord (nbits w : Nat) : Word := BitVec.ofNat 16 (w % 2 ^ nbits)

/-- The instruction the decoder reads from an instruction whose opcode-table bits are `w`, laid out big-endian (R66). -/
def decodeTableWord (nbits w : Nat) : Option Instr :=
  match decodeBytes [(tableWord nbits w).hi, (tableWord nbits w).lo] with
  | .ok (i, _) => some i
  | .error _ => none

end Sys2Proof
end

