-- ==== Sys2Proof/Config.lean ====
section
/-! DEFINITION. The values the spec leaves free. The spec's two parameters that have a DEFAULT, GLYPH_TABLE and
SHIFT_VF_ORDER (R5), stand in Sys2Proof/Machine/Params.lean. -/

namespace Sys2Proof

/-- The random input of R123: "a free input of each step under no law (a draw)". The `n`-th executed RND of a machine
reads `Config.rnd n` (State.draws is `n`). It has no body, so nothing can be proved of a value of it and a claim holds
for every sequence of draws. DESIGN CHOICE (log entry 3), safe. -/
opaque Config.rnd : Nat → Byte

end Sys2Proof
end

