-- ==== Sys2Proof/Machine/Params.lean ====
section
/-! DEFINITION. The spec's two parameters that have a default (R5): GLYPH_TABLE and SHIFT_VF_ORDER. They stand here and not in
Config.lean because a test of the hardware could show a default wrong. No claim rests on a default: claims name the parameter. -/

namespace Sys2Proof.Machine

/-- Digits 0 to 7 of the default GLYPH_TABLE, five bytes a glyph (R63). -/
def glyphTableLow : List Byte := [
  0xF0#8, 0x90#8, 0x90#8, 0x90#8, 0xF0#8,
  0x20#8, 0x60#8, 0x20#8, 0x20#8, 0x70#8,
  0xF0#8, 0x10#8, 0xF0#8, 0x80#8, 0xF0#8,
  0xF0#8, 0x10#8, 0xF0#8, 0x10#8, 0xF0#8,
  0x90#8, 0x90#8, 0xF0#8, 0x10#8, 0x10#8,
  0xF0#8, 0x80#8, 0xF0#8, 0x10#8, 0xF0#8,
  0xF0#8, 0x80#8, 0xF0#8, 0x90#8, 0xF0#8,
  0xF0#8, 0x10#8, 0x20#8, 0x40#8, 0x40#8]

/-- Digits 8 to F of the default GLYPH_TABLE, five bytes a glyph (R63). -/
def glyphTableHigh : List Byte := [
  0xF0#8, 0x90#8, 0xF0#8, 0x90#8, 0xF0#8,
  0xF0#8, 0x90#8, 0xF0#8, 0x10#8, 0xF0#8,
  0xF0#8, 0x90#8, 0xF0#8, 0x90#8, 0x90#8,
  0xE0#8, 0x90#8, 0xE0#8, 0x90#8, 0xE0#8,
  0xF0#8, 0x80#8, 0x80#8, 0x80#8, 0xF0#8,
  0xE0#8, 0x90#8, 0x90#8, 0x90#8, 0xE0#8,
  0xF0#8, 0x80#8, 0xF0#8, 0x80#8, 0xF0#8,
  0xF0#8, 0x80#8, 0xF0#8, 0x80#8, 0x80#8]

/-- GLYPH_TABLE: the 80 bytes new and reset copy into [0,80) (R63, R292). The source fixes the layout, not the bytes; the
spec's default is the conventional font. PRESUMED (log entry 1), unsafe for a claim that uses a glyph byte. -/
def glyphTable : List Byte := glyphTableLow ++ glyphTableHigh

/-- The two readings of `8Fy6` and `8FyE` (R151, D2). -/
inductive ShiftVfOrder where
  /-- the statements run in the order the source writes them: VF first, then Vx -/
  | sequential
  /-- VF is written last and ends as the bit shifted out -/
  | flagLast
  deriving DecidableEq, Repr

/-- SHIFT_VF_ORDER at its default (R5, D2). DEDUCED (log entry 4), unsafe for a claim about a shift whose x is 0xF. -/
def shiftVfOrder : ShiftVfOrder := .sequential

end Sys2Proof.Machine
end

