-- ==== Sys2Proof/Machine/State.lean ====
section
/-! DEFINITION. The state of the machine: the record of 10_state.md and two fields of the model's own, as plain data. -/

namespace Sys2Proof.Machine

/-- The errors of the block with the spec's numeric codes in the order of R240. -/
inductive ErrCode where
  /-- code 1, CapacityError: load, more data than memory has room for; recoverable -/
  | capacity
  /-- code 2, UnimplementedOpcodeError: step, at decode; fatal -/
  | unimplementedOpcode
  /-- code 3, StackOverflowError: CALL with 16 entries in use; recoverable -/
  | stackOverflow
  /-- code 4, StackUnderflowError: RET with no entry in use; recoverable -/
  | stackUnderflow
  /-- code 5, AddressRangeError: a fetch or a data access at or past address 4096; fatal -/
  | addressRange
  /-- code 6, KeyRangeError: SKP or SKNP with a key operand of 16 or more; fatal -/
  | keyRange
  /-- code 7, KeyArgumentError: set_key with an index outside 0..15; recoverable -/
  | keyArgument
  deriving DecidableEq, Repr

/-- The record FAULT holds after a fatal error: (code, pc, opcode), the opcode none when the fetch itself raised (R28, R243). -/
structure FaultRecord where
  /-- the error's code -/
  code : ErrCode
  /-- p, the address of the instruction that raised it -/
  pc : Word
  /-- the fetched word, none when the fetch raised -/
  opcode : Option Word
  deriving DecidableEq, Repr

/-- What a step returns with Err(E, info): the error and the info column of R240. -/
inductive StepErr where
  /-- the illegal word and its address p -/
  | unimplementedOpcode (word p : Word)
  /-- p -/
  | stackOverflow (p : Word)
  /-- p -/
  | stackUnderflow (p : Word)
  /-- the highest address the access would touch (for a fetch p itself), and p -/
  | addressRange (addr : Nat) (p : Word)
  /-- Vx and p -/
  | keyRange (vx : Byte) (p : Word)
  /-- a step while FAULT is set: the recorded error (R120, R243) -/
  | recorded (f : FaultRecord)
  deriving DecidableEq, Repr

/-- The call stack, 16 entries of 16 bits (R25). -/
abbrev Stack := Vector Word 16

/-- The framebuffer: 32 rows of 64 pixels, row-major, true for set (R29). -/
abbrev Grid := Vector (Vector Bool 64) 32

/-- Memory: the listed bytes, by address; Ops.lean says what an unlisted address reads as and what the canonical form is. -/
abbrev Memory := List Host.Cell

/-- Why a step would stop the machine: it has NO constructor, because no operation of this machine does. Every error of
R240 is an outcome after which the machine can be stepped again (R126, R243, R244), and is taken as a next state. -/
inductive Fault where
  deriving DecidableEq, Repr

/-- Why an instruction has no meaning in the model. -/
inductive Refusal where
  /-- raised by `exec` alone, for an instruction the model gives no meaning yet; safe. No arm raises it now. -/
  | notModelled (mnemonic : String)
  deriving DecidableEq, Repr

/-- The whole state of the VM (10_state.md; "Nothing else is state"), and the model's own `err` and `draws`. -/
structure State where
  /-- memory, 4096 bytes (R31, R60) -/
  mem : Memory
  /-- the general registers V0..VF (R20) -/
  V : Vector Byte 16
  /-- the address register (R22) -/
  I : Word
  /-- the program counter (R23) -/
  PC : Word
  /-- the stack pointer, 0..16: the entries in use (R24) -/
  SP : Fin 17
  /-- the call stack (R25) -/
  stack : Stack
  /-- the delay timer (R26) -/
  DT : Byte
  /-- the sound timer (R27) -/
  ST : Byte
  /-- the framebuffer (R29) -/
  fb : Grid
  /-- the keypad, true for pressed (R30) -/
  key : Vector Bool 16
  /-- the FAULT register (R28) -/
  FAULT : Option FaultRecord
  /-- the model's own: what the last step returned, none for Ok (R120). DESIGN CHOICE (log entry 2), safe -/
  err : Option StepErr
  /-- the model's own: how many draws RND has taken (R123). DESIGN CHOICE (log entry 3), safe -/
  draws : Nat
  deriving DecidableEq, Repr

/-- The state new and reset leave (R34, R290): the glyph table and zeros in memory are what unlisted addresses read as. -/
def State.reset : State where
  mem := []
  V := Vector.replicate 16 0#8
  I := 0#16
  PC := 512#16
  SP := 0
  stack := Vector.replicate 16 0#16
  DT := 0#8
  ST := 0#8
  fb := Vector.replicate 32 (Vector.replicate 64 false)
  key := Vector.replicate 16 false
  FAULT := none
  err := none
  draws := 0

end Sys2Proof.Machine
end

