-- ==== Sys2Proof/Machine/Ops.lean ====
section
/-! DEFINITION. The named operations over memory, registers, stack, framebuffer and PC; taking an error (R121, R243); fetching and
the front of a step up to the decoded instruction (R120, R245). The block has no trap entry and no trap return (R252): taking an
error is `raise`, and nothing but new and reset undoes it. -/

namespace Sys2Proof.Machine

/-- The outcome of a step or of a meaning. -/
abbrev Result := Host.Outcome State Fault Refusal

/-! ## Memory (20_memory.md) -/

/-- MEM_SIZE: addresses 0..4095 exist (R5, R60). -/
def memSize : Nat := 4096

/-- What an address nothing has written reads as: the reset content of R34, GLYPH_TABLE in [0,80) and 0 from 80 on (R61). -/
def Memory.unlisted (a : Nat) : Byte := glyphTable.getD a 0#8

/-- The byte at an address: the last byte written there, or its reset content (R69). -/
def Memory.read (m : Memory) (a : Nat) : Byte := (m.lookup a).getD (Memory.unlisted a)

/-- Puts a cell into its place among cells of rising addresses. -/
def Memory.insertCell (c : Host.Cell) : Memory → Memory
  | [] => [c]
  | d :: m => if c.1 < d.1 then c :: d :: m else d :: Memory.insertCell c m

/-- Writes one byte (R65): no other byte changes, and a byte written back to its reset content is listed no more, so that
equal memories are equal data. -/
def Memory.write (m : Memory) (a : Nat) (v : Byte) : Memory :=
  let others := m.filter fun c => c.1 != a
  if v = Memory.unlisted a then others else Memory.insertCell (a, v) others

/-- The bytes at a, a+1, .., a+n-1. -/
def Memory.readBytes (m : Memory) (a n : Nat) : List Byte := (List.range n).map fun k => m.read (a + k)

/-- Writes bytes at a, a+1, .. in that order. -/
def Memory.writeBytes (m : Memory) (a : Nat) : List Byte → Memory
  | [] => m
  | b :: bs => Memory.writeBytes (m.write a b) (a + 1) bs

/-- The canonical form: addresses strictly rise and exist, and no entry equals what its address reads as unlisted. -/
def Memory.wf (m : Memory) : Bool :=
  decide (m.Pairwise fun c d => c.1 < d.1) && m.all fun c => decide (c.1 < memSize) && c.2 != Memory.unlisted c.1

/-! ## Registers, stack and PC (10_state.md) -/

/-- `V[x]` (R8, R20). -/
def State.getV (s : State) (x : Reg) : Byte := s.V[x.toNat]'x.isLt

/-- `V[x] <- v` (R8, R20). -/
def State.setV (s : State) (x : Reg) (v : Byte) : State := { s with V := s.V.set x.toNat v x.isLt }

/-- `I <- v` (R8, R22): all 16 bits. -/
def State.setI (s : State) (v : Word) : State := { s with I := v }

/-- `PC <- target` (R8). -/
def State.setPC (s : State) (v : Word) : State := { s with PC := v }

/-- `DT <- v` (R26). -/
def State.setDT (s : State) (v : Byte) : State := { s with DT := v }

/-- `ST <- v` (R27). -/
def State.setST (s : State) (v : Byte) : State := { s with ST := v }

/-- The framebuffer after a drawing instruction (R29). -/
def State.setFb (s : State) (g : Grid) : State := { s with fb := g }

/-- Memory after a storing instruction (R65). -/
def State.setMem (s : State) (m : Memory) : State := { s with mem := m }

/-- All general registers at once, for the block load (R186). -/
def State.setRegs (s : State) (v : Vector Byte 16) : State := { s with V := v }

/-- One more draw has been taken (R123). -/
def State.countDraw (s : State) : State := { s with draws := s.draws + 1 }

/-- Push: "writes at the current pointer then increments" (R24). It is used only with SP below 16 (R144), where neither the
in-bounds write nor the minimum cuts anything off. -/
def State.push (s : State) (v : Word) : State :=
  { s with stack := s.stack.setIfInBounds s.SP.val v, SP := ⟨min (s.SP.val + 1) 16, by omega⟩ }

/-- The value a pop reads: "pop decrements then reads" (R24, R142). It is used only with SP above 0 (R142). -/
def State.top (s : State) : Word := s.stack[s.SP.val - 1]'(by omega)

/-- Pop's decrement; the popped entry keeps its value (R25, R142). -/
def State.pop (s : State) : State := { s with SP := ⟨s.SP.val - 1, by omega⟩ }

/-- The working copy an instruction's rule runs on: PC is p + 2 (R120, R122, R125), and a step that ends there returned Ok. -/
def State.advance (s : State) : State := { s with PC := s.PC + 2#16, err := none }

/-- A taken skip: `PC <- PC + 2` on the working copy (R141). -/
def State.skip (s : State) : State := { s with PC := s.PC + 2#16 }

/-- Skips if the condition holds (R141). -/
def State.skipIf (s : State) (c : Bool) : State := if c then s.skip else s

/-! ## The framebuffer (R29) -/

/-- `fb[r][c]` (R8). -/
def Grid.pixel (g : Grid) (r : Fin 32) (c : Fin 64) : Bool := (g[r.val]'r.isLt)[c.val]'c.isLt

/-- `fb[r][c] <- v` (R8). -/
def Grid.setPixel (g : Grid) (r : Fin 32) (c : Fin 64) (v : Bool) : Grid :=
  g.set r.val ((g[r.val]'r.isLt).set c.val v c.isLt) r.isLt

/-- Every pixel unset (R200). -/
def Grid.clear : Grid := Vector.replicate 32 (Vector.replicate 64 false)

/-! ## Errors (60_exceptions.md) -/

/-- The numeric code of an error (R240). -/
def ErrCode.number : ErrCode → Nat
  | .capacity => 1
  | .unimplementedOpcode => 2
  | .stackOverflow => 3
  | .stackUnderflow => 4
  | .addressRange => 5
  | .keyRange => 6
  | .keyArgument => 7

/-- Fatal errors are codes 2, 5 and 6 (R243); the others are recoverable (R244). -/
def ErrCode.fatal : ErrCode → Bool
  | .unimplementedOpcode => true
  | .addressRange => true
  | .keyRange => true
  | .capacity => false
  | .stackOverflow => false
  | .stackUnderflow => false
  | .keyArgument => false

/-- The code of an error a step returned; a step on a faulted machine returns the recorded code (R120). -/
def StepErr.code : StepErr → ErrCode
  | .unimplementedOpcode _ _ => .unimplementedOpcode
  | .stackOverflow _ => .stackOverflow
  | .stackUnderflow _ => .stackUnderflow
  | .addressRange _ _ => .addressRange
  | .keyRange _ _ => .keyRange
  | .recorded f => f.code

/-- TAKING AN ERROR, the `on raise` of R120: `s` is the state from before the step and `op` the fetched word, none when the fetch
raised. Everything is as before the step, PC included (R121, R242); FAULT gets (code, p, op) iff the error is fatal (R243, R244);
the error is what the step returns. -/
def raise (s : State) (op : Option Word) (e : StepErr) : State :=
  { s with
    FAULT := if e.code.fatal then some ⟨e.code, s.PC, op⟩ else s.FAULT
    err := some e }

/-- An instruction's own rule raises: its word is the fetched one (R120). -/
def fail (i : Instr) (s : State) (e : StepErr) : Result := .next (raise s (some (encode i)) e)

/-- A step on a machine whose FAULT is set: the recorded error is returned and nothing changes (R120, R243). -/
def returnRecorded (s : State) (f : FaultRecord) : State := { s with err := some (.recorded f) }

/-! ## Fetch and decode (40_step_cycle.md) -/

/-- `MemRead(PC, 2)`, big-endian (R66, R122); none where PC + 2 > 4096, on naturals (R64). -/
def fetch (s : State) : Option Word :=
  if s.PC.toNat + 2 ≤ memSize then
    some (Word.ofBytes (s.mem.read s.PC.toNat) (s.mem.read (s.PC.toNat + 1)))
  else none

/-- What the front of a step ends in. -/
inductive Front where
  /-- an error was taken, or FAULT was already set -/
  | taken (t : State)
  /-- this instruction is to be executed -/
  | run (i : Instr)
  deriving DecidableEq, Repr

/-- The step up to `execute`, in the order of R120 and R245: FAULT, then the fetch range, then decode. -/
def front (s : State) : Front :=
  match s.FAULT with
  | some f => .taken (returnRecorded s f)
  | none =>
    match fetch s with
    | none => .taken (raise s none (.addressRange s.PC.toNat s.PC))
    | some op =>
      match decode op with
      | none => .taken (raise s (some op) (.unimplementedOpcode op s.PC))
      | some i => .run i

/-- Puts an instruction word where the next step fetches: FAULT is none, PC leaves room for two bytes (512, where programs
start, if it did not), and the two bytes stand there big-endian (R23, R66, R120, R122). -/
def placeWord (s : State) (w : Word) : State :=
  let p : Word := if s.PC.toNat + 2 ≤ memSize then s.PC else 512#16
  { s with PC := p, FAULT := none, mem := s.mem.writeBytes p.toNat [w.hi, w.lo] }

end Sys2Proof.Machine
end

