-- ==== Sys2Proof/Machine/Operands.lean ====
section
/-! DEFINITION. Every operand form: literals widened by R91 and R96, the one addressing mode I + k with its range (R181), the key
operand (R222), the glyph address (R183) and the decimal digits (R184). -/

namespace Sys2Proof.Machine

/-- `zext_16(nnn)`: an address literal as PC or I takes it (R91, R96). -/
def addrWord (nnn : Addr) : Word := nnn.setWidth 16

/-- `zext_16(v)`: a register's value as PC or I takes it (R149, R182, R183). -/
def byteWord (v : Byte) : Word := v.setWidth 16

/-- `ea = I + k` on naturals, without wrap-around (R181). -/
def State.ea (s : State) (k : Nat) : Nat := s.I.toNat + k

/-- An access whose highest address is `a` is out of range (R64, R65, R181). -/
def outOfRange (a : Nat) : Bool := decide (a ≥ memSize)

/-- The address of the built-in glyph for a digit, `5 v`, not masked (R183). -/
def glyphAddr (v : Byte) : Word := byteWord v * 5#16

/-- The three decimal digits (hundreds, tens, ones) of a byte (R184). -/
def bcdDigits (v : Byte) : List Byte :=
  [BitVec.ofNat 8 (v.toNat / 100), BitVec.ofNat 8 (v.toNat / 10 % 10), BitVec.ofNat 8 (v.toNat % 10)]

/-- V0..Vx inclusive, in that order (R185). -/
def State.regsUpTo (s : State) (x : Reg) : List Byte := s.V.toList.take (x.toNat + 1)

/-- The register file after V0..Vx inclusive were loaded from mem[I..I+x] (R186). -/
def State.loadedRegs (s : State) (x : Reg) : Vector Byte 16 :=
  Vector.ofFn fun k => if k.val ≤ x.toNat then s.mem.read (s.ea k.val) else s.V[k.val]

/-- The keypad entry a key operand names: the whole byte, none for 16 or more (R222). -/
def State.keyAt (s : State) (v : Byte) : Option Bool := s.key[v.toNat]?

/-- The lowest-indexed pressed key, if any (R225). -/
def State.lowestKey (s : State) : Option (Fin 16) := (List.finRange 16).find? fun k => s.key[k.val]

end Sys2Proof.Machine
end

