-- ==== Sys2Proof/Machine/Alu.lean ====
section
/-! DEFINITION. The meanings of 42_alu.md: loads, arithmetic, logic and shifts on V registers, and RND. Writes happen in the order the
rule writes them, so that the last write wins when x is 0xF (R9, R151). -/

namespace Sys2Proof.Machine

/-- `6xkk` LD Vx, byte (R160). -/
def execLdByte (x : Reg) (kk : Byte) (s : State) : Result := .next (s.advance.setV x kk)

/-- `7xkk` ADD Vx, byte: wraps, no flag (R161). -/
def execAddByte (x : Reg) (kk : Byte) (s : State) : Result :=
  .next (s.advance.setV x (overflowingAdd (s.getV x) kk).1)

/-- `8xy0` LD Vx, Vy (R162). -/
def execLdReg (x y : Reg) (s : State) : Result := .next (s.advance.setV x (s.getV y))

/-- `8xy1` OR Vx, Vy: VF is not cleared (R163). -/
def execOrReg (x y : Reg) (s : State) : Result := .next (s.advance.setV x (s.getV x ||| s.getV y))

/-- `8xy2` AND Vx, Vy: VF is not cleared (R164). -/
def execAndReg (x y : Reg) (s : State) : Result := .next (s.advance.setV x (s.getV x &&& s.getV y))

/-- `8xy3` XOR Vx, Vy: VF is not cleared (R165). -/
def execXorReg (x y : Reg) (s : State) : Result := .next (s.advance.setV x (s.getV x ^^^ s.getV y))

/-- Vx, then VF: the order of `8xy4`, `8xy5` and `8xy7` (R151). -/
def State.setResultThenFlag (s : State) (x : Reg) (v : Byte) (flag : Bool) : State :=
  (s.setV x v).setV vF (flagByte flag)

/-- `8xy4` ADD Vx, Vy: VF = carry (R166). -/
def execAddReg (x y : Reg) (s : State) : Result :=
  let r := overflowingAdd (s.getV x) (s.getV y)
  .next (s.advance.setResultThenFlag x r.1 r.2)

/-- `8xy5` SUB Vx, Vy: VF = 1 iff NO borrow (R167). -/
def execSub (x y : Reg) (s : State) : Result :=
  let r := overflowingSub (s.getV x) (s.getV y)
  .next (s.advance.setResultThenFlag x r.1 (!r.2))

/-- `8xy7` SUBN Vx, Vy: Vy - Vx, VF = 1 iff a borrow occurred, the opposite sense to SUB (R169, G3). -/
def execSubn (x y : Reg) (s : State) : Result :=
  let r := overflowingSub (s.getV y) (s.getV x)
  .next (s.advance.setResultThenFlag x r.1 r.2)

/-- A shift of Vx by one under either value of SHIFT_VF_ORDER (R151): SEQUENTIAL writes VF first and shifts what Vx then
holds, FLAG_LAST shifts first and writes VF last. -/
def shiftWith (order : ShiftVfOrder) (x : Reg) (bitOut shifted : Byte → Byte) (s : State) : State :=
  match order with
  | .sequential =>
    let t := s.setV vF (bitOut (s.getV x))
    t.setV x (shifted (t.getV x))
  | .flagLast => (s.setV x (shifted (s.getV x))).setV vF (bitOut (s.getV x))

/-- `8xy6` under either value of SHIFT_VF_ORDER; y is ignored (R168). -/
def shrWith (order : ShiftVfOrder) (x : Reg) (s : State) : State := shiftWith order x lsbOut (fun v => v >>> 1) s

/-- `8xyE` under either value of SHIFT_VF_ORDER; y is ignored (R170). -/
def shlWith (order : ShiftVfOrder) (x : Reg) (s : State) : State := shiftWith order x msbOut (fun v => v <<< 1) s

/-- `8xy6` SHR Vx: the spec's y field is decoded and ignored (R168). -/
def execShr (x _y : Reg) (s : State) : Result := .next (shrWith shiftVfOrder x s.advance)

/-- `8xyE` SHL Vx: the spec's y field is decoded and ignored (R170). -/
def execShl (x _y : Reg) (s : State) : Result := .next (shlWith shiftVfOrder x s.advance)

/-- `Cxkk` with the step's random input given: `V[x] <- rnd & kk` (R171). The draw is counted. -/
def rndWith (rnd : Byte) (x : Reg) (kk : Byte) (s : State) : Result := .next (s.advance.setV x (rnd &&& kk)).countDraw

/-- `Cxkk` RND Vx, byte: the random input is the next draw of the free sequence (R123, R171; log entry 3). -/
def execRnd (x : Reg) (kk : Byte) (s : State) : Result := rndWith (Config.rnd s.draws) x kk s

end Sys2Proof.Machine
end

