-- ==== Sys2Proof/Machine/ControlFlow.lean ====
section
/-! DEFINITION. The meanings of 41_control_flow.md: NOP, RET, JP, CALL, the skips on V registers, JP V0. In each, `s` is the state at
the fetch (PC = p) and `s.advance` the working copy the rule's pseudocode runs on (PC = p + 2). -/

namespace Sys2Proof.Machine

/-- `0000` NOP: the fetch's advance is the only effect (R140). -/
def execNop (s : State) : Result := .next s.advance

/-- `00EE` RET: StackUnderflowError(p) when SP = 0; otherwise `SP <- SP - 1; PC <- stack[SP]` (R142). -/
def execRet (s : State) : Result :=
  if s.SP.val = 0 then fail .ret s (.stackUnderflow s.PC)
  else .next (s.advance.pop.setPC s.top)

/-- `1nnn` JP addr: `PC <- zext_16(nnn)` (R143). -/
def execJp (nnn : Addr) (s : State) : Result := .next (s.advance.setPC (addrWord nnn))

/-- `2nnn` CALL addr: StackOverflowError(p) when SP = 16; otherwise p + 2 is pushed and `PC <- zext_16(nnn)` (R144). -/
def execCall (nnn : Addr) (s : State) : Result :=
  if s.SP.val = 16 then fail (.call nnn) s (.stackOverflow s.PC)
  else .next ((s.advance.push s.advance.PC).setPC (addrWord nnn))

/-- `3xkk` SE Vx, byte (R145). -/
def execSeByte (x : Reg) (kk : Byte) (s : State) : Result := .next (s.advance.skipIf (s.getV x == kk))

/-- `4xkk` SNE Vx, byte (R146). -/
def execSneByte (x : Reg) (kk : Byte) (s : State) : Result := .next (s.advance.skipIf (s.getV x != kk))

/-- `5xy0` SE Vx, Vy (R147). -/
def execSeReg (x y : Reg) (s : State) : Result := .next (s.advance.skipIf (s.getV x == s.getV y))

/-- `9xy0` SNE Vx, Vy (R148). -/
def execSneReg (x y : Reg) (s : State) : Result := .next (s.advance.skipIf (s.getV x != s.getV y))

/-- `Bnnn` JP V0, addr: `PC <- zext_16(nnn) + zext_16(V[0])`, not masked (R149). -/
def execJpV0 (nnn : Addr) (s : State) : Result := .next (s.advance.setPC (addrWord nnn + byteWord (s.getV 0x0#4)))

end Sys2Proof.Machine
end

