-- ==== Sys2Proof/Machine/Display.lean ====
section
/-! DEFINITION. The meanings of 44_display.md: CLS and DRW, and how a sprite is drawn (R201). -/

namespace Sys2Proof.Machine

/-- The framebuffer row of sprite row k at row coordinate Y: `(Y + k) mod 32` (R201). -/
def rowOf (Y k : Nat) : Fin 32 := ⟨(Y + k) % 32, Nat.mod_lt _ (by decide)⟩

/-- The framebuffer column of sprite column c at column coordinate X: `(X + c) mod 64` (R201). -/
def colOf (X c : Nat) : Fin 64 := ⟨(X + c) % 64, Nat.mod_lt _ (by decide)⟩

/-- The drawing in progress: the framebuffer and whether a pixel went from set to unset so far (`col` of R201). -/
abbrev Drawing := Grid × Bool

/-- Draws one set bit of a sprite: a set pixel under it is a collision, and the pixel is toggled (R201). -/
def plot (d : Drawing) (r : Fin 32) (q : Fin 64) : Drawing :=
  (d.1.setPixel r q (!d.1.pixel r q), d.2 || d.1.pixel r q)

/-- Draws the columns `cs` of one sprite byte on a row; bit 7 - c is column c, so bit 7 is leftmost (R201, D13). -/
def drawByte (X : Nat) (r : Fin 32) (b : Byte) : List Nat → Drawing → Drawing
  | [], d => d
  | c :: cs, d => drawByte X r b cs (if b.getLsbD (7 - c) then plot d r (colOf X c) else d)

/-- Draws sprite bytes from sprite row `k` on, byte k on row Y + k (R201, D13). -/
def drawRows (X Y : Nat) : Nat → List Byte → Drawing → Drawing
  | _, [], d => d
  | k, b :: bs, d => drawRows X Y (k + 1) bs (drawByte X (rowOf Y k) b (List.range 8) d)

/-- `00E0` CLS: every pixel unset, VF not written (R200). -/
def execCls (s : State) : Result := .next (s.advance.setFb Grid.clear)

/-- The state after a sprite of `n` bytes at I was drawn at column X and row Y: the pixels, then VF, even for n = 0 (R201, D15). -/
def State.drawSprite (s : State) (X Y n : Nat) : State :=
  let d := drawRows X Y 0 (s.mem.readBytes (s.ea 0) n) (s.fb, false)
  (s.setFb d.1).setV vF (flagByte d.2)

/-- `Dxyn` DRW Vx, Vy, nibble: AddressRangeError(I + n - 1) when n > 0 and I + n - 1 >= 4096; otherwise the sprite is drawn at the
coordinates V[x] and V[y] held before any write (R201). -/
def execDrw (x y : Reg) (n : Nibble) (s : State) : Result :=
  if decide (n.toNat > 0) && outOfRange (s.ea (n.toNat - 1)) then
    fail (.drw x y n) s (.addressRange (s.ea (n.toNat - 1)) s.PC)
  else .next (s.advance.drawSprite (s.getV x).toNat (s.getV y).toNat n.toNat)

end Sys2Proof.Machine
end

