-- ==== Sys2Proof/Machine/IndexMemory.lean ====
section
/-! DEFINITION. The meanings of 43_index_memory.md. A block access is checked as a whole before any of it takes effect (R64, R121);
none changes I (R181). -/

namespace Sys2Proof.Machine

/-- `Annn` LD I, addr (R180). -/
def execLdI (nnn : Addr) (s : State) : Result := .next (s.advance.setI (addrWord nnn))

/-- `Fx1E` ADD I, Vx: modulo 65536, no flag, no mask (R182). -/
def execAddI (x : Reg) (s : State) : Result := .next (s.advance.setI (s.I + byteWord (s.getV x)))

/-- `Fx29` LD F, Vx: `I <- 5 V[x]`, V[x] not masked (R183). -/
def execLdF (x : Reg) (s : State) : Result := .next (s.advance.setI (glyphAddr (s.getV x)))

/-- `Fx33` LD B, Vx: the decimal digits to mem[I..I+2]; AddressRangeError(I + 2) when I + 2 >= 4096 (R184). -/
def execLdB (x : Reg) (s : State) : Result :=
  if outOfRange (s.ea 2) then fail (.ldB x) s (.addressRange (s.ea 2) s.PC)
  else .next (s.advance.setMem (s.mem.writeBytes (s.ea 0) (bcdDigits (s.getV x))))

/-- `Fx55` LD [I], Vx: V0..Vx to mem[I..I+x]; AddressRangeError(I + x) when I + x >= 4096 (R185). -/
def execLdStore (x : Reg) (s : State) : Result :=
  if outOfRange (s.ea x.toNat) then fail (.ldStore x) s (.addressRange (s.ea x.toNat) s.PC)
  else .next (s.advance.setMem (s.mem.writeBytes (s.ea 0) (s.regsUpTo x)))

/-- `Fx65` LD Vx, [I]: V0..Vx from mem[I..I+x]; AddressRangeError(I + x) when I + x >= 4096 (R186). -/
def execLdLoad (x : Reg) (s : State) : Result :=
  if outOfRange (s.ea x.toNat) then fail (.ldLoad x) s (.addressRange (s.ea x.toNat) s.PC)
  else .next (s.advance.setRegs (s.loadedRegs x))

end Sys2Proof.Machine
end

