-- ==== Sys2Proof/Machine/KeypadTimer.lean ====
section
/-! DEFINITION. The meanings of 45_keypad_timer.md. -/

namespace Sys2Proof.Machine

/-- `Ex9E` SKP Vx: KeyRangeError(Vx) when Vx >= 16, before the skip is decided; otherwise skips if the key is pressed (R220, R222). -/
def execSkp (x : Reg) (s : State) : Result :=
  match s.keyAt (s.getV x) with
  | none => fail (.skp x) s (.keyRange (s.getV x) s.PC)
  | some pressed => .next (s.advance.skipIf pressed)

/-- `ExA1` SKNP Vx: KeyRangeError(Vx) when Vx >= 16; otherwise skips if the key is not pressed (R221, R222). -/
def execSknp (x : Reg) (s : State) : Result :=
  match s.keyAt (s.getV x) with
  | none => fail (.sknp x) s (.keyRange (s.getV x) s.PC)
  | some pressed => .next (s.advance.skipIf (!pressed))

/-- `Fx07` LD Vx, DT (R224). -/
def execLdVxDT (x : Reg) (s : State) : Result := .next (s.advance.setV x s.DT)

/-- `Fx0A` LD Vx, K: the lowest pressed key, or PC back to p so that the instruction runs again, a successful step (R225). -/
def execLdVxK (x : Reg) (s : State) : Result :=
  match s.lowestKey with
  | some k => .next (s.advance.setV x (BitVec.ofNat 8 k.val))
  | none => .next (s.advance.setPC (s.advance.PC - 2#16))

/-- `Fx15` LD DT, Vx (R226). -/
def execLdDT (x : Reg) (s : State) : Result := .next (s.advance.setDT (s.getV x))

/-- `Fx18` LD ST, Vx (R227). -/
def execLdST (x : Reg) (s : State) : Result := .next (s.advance.setST (s.getV x))

end Sys2Proof.Machine
end

