-- ==== Sys2Proof/Machine/Step.lean ====
section
/-! DEFINITION. The step: exactly one instruction (R120, R125). -/

namespace Sys2Proof.Machine

/-- `step` of R120 with the random input taken from the free draws: what the front of the step took, or the decoded instruction. -/
def step (s : State) : Host.Outcome State Fault Refusal :=
  match front s with
  | .taken t => .next t
  | .run i => exec i s

/-- `s` with the instruction whose opcode-table bits are `w` placed where the next step fetches. -/
def State.withFetchWord (s : State) (nbits w : Nat) : State := placeWord s (tableWord nbits w)

end Sys2Proof.Machine
end

