-- ==== Sys2Proof/Machine/HostOps.lean ====
section
/-! DEFINITION. The operations the host applies to the block (00_scope.md section 5, R271), each one indivisible transition (R69), and
their union `HostOp`, so that every interleaving of them is a run of the model (R262, R302). -/

namespace Sys2Proof.Machine

/-! ## Construction, reset, loading (70_reset_and_hazards.md) -/

/-- `new()`: a VM in the reset state; it never fails (R290). -/
def newVM : State := State.reset

/-- `reset(S)`: the effect of new in place, whatever S was, FAULT included (R291). The model's own draw counter goes on, so that
the draws after a reset are free of those before it (log entry 3). -/
def resetVM (s : State) : State := { newVM with draws := s.draws }

/-- PROGRAM_START: load writes from 512 on (R5, R293). -/
def programStart : Nat := 512

/-- The errors of the host's other operations, with their info (R240). -/
inductive HostErr where
  /-- CapacityError, code 1: the length of the data -/
  | capacity (len : Nat)
  /-- KeyArgumentError, code 7: the index -/
  | keyArgument (index : Nat)
  deriving DecidableEq, Repr

/-- The code of an error of load or set_key (R240). -/
def HostErr.code : HostErr → ErrCode
  | .capacity _ => .capacity
  | .keyArgument _ => .keyArgument

/-- `load(S, data)`: the bytes to mem[512..], nothing else; CapacityError, before any write, when they do not fit (R293, R294). -/
def load (s : State) (data : List Byte) : Except HostErr State :=
  if programStart + data.length > memSize then .error (.capacity data.length)
  else .ok (s.setMem (s.mem.writeBytes programStart data))

/-! ## Timers, keypad, read ports (60_exceptions.md) -/

/-- A timer counted down by at most 1, never below 0 (R260). -/
def countDown (t : Byte) : Byte := if t.toNat > 0 then t - 1#8 else t

/-- `tick_timers(S)`: DT and ST counted down, and stop_tone, 1 exactly on the tick that takes ST from 1 to 0 (R260, R261). -/
def tickTimers (s : State) : State × Bool :=
  ((s.setDT (countDown s.DT)).setST (countDown s.ST), s.ST == 1#8)

/-- `set_key(S, index, pressed)`; KeyArgumentError for an index outside 0..15 (R265). -/
def setKey (s : State) (index : Nat) (pressed : Bool) : Except HostErr State :=
  if h : index < 16 then .ok { s with key := s.key.set index pressed h }
  else .error (.keyArgument index)

/-- `framebuffer(S)`: 2048 pixels, row-major, pixel (c, r) at index r x 64 + c (R267). -/
def framebuffer (s : State) : List Bool := (s.fb.toList.map Vector.toList).flatten

/-- `tone_on` (R263). -/
def toneOn (s : State) : Bool := decide (s.ST.toNat > 0)

/-- `inspect(S)`: the whole state of 10_state.md, read-only; the model's own two fields are shown at their reset values, since they
are no state of the block (R268). -/
def inspect (s : State) : State := { s with err := none, draws := 0 }

/-! ## The step with its random input given -/

/-- `execute(ins, T, rnd)`: only RND reads rnd (R123, R125). -/
def execWith (rnd : Byte) (i : Instr) (s : State) : Result :=
  match i with
  | .rnd x kk => rndWith rnd x kk s
  | _ => exec i s

/-- `step(S, rnd)` of R120. The machine's own `step` is this at the next free draw. -/
def stepWith (rnd : Byte) (s : State) : Result :=
  match front s with
  | .taken t => .next t
  | .run i => execWith rnd i s

/-! ## All of them -/

/-- An operation of the host on a VM (R271). `new` makes a VM and is no operation on one. -/
inductive HostOp where
  | reset
  | load (data : List Byte)
  | step (rnd : Byte)
  | tickTimers
  | setKey (index : Nat) (pressed : Bool)
  | framebuffer
  | readTimers
  | inspect
  deriving DecidableEq, Repr

/-- What an operation gives back to the host (00_scope.md section 5). -/
inductive HostReply where
  /-- Ok -/
  | ok
  /-- Err of a step (R240) -/
  | stepErr (e : StepErr)
  /-- Err of load or set_key (R240) -/
  | hostErr (e : HostErr)
  /-- stop_tone of tick_timers (R261) -/
  | stopTone (b : Bool)
  /-- the 2048 pixels (R267) -/
  | pixels (bits : List Bool)
  /-- tone_on, DT, ST (R263) -/
  | timers (tone : Bool) (dt st : Byte)
  /-- the whole state (R268) -/
  | whole (s : State)
  deriving DecidableEq, Repr

/-- The code of the error a reply returns; none where the operation succeeded (R240). -/
def HostReply.code : HostReply → Option ErrCode
  | .ok => none
  | .stepErr e => some e.code
  | .hostErr e => some e.code
  | .stopTone _ => none
  | .pixels _ => none
  | .timers _ _ _ => none
  | .whole _ => none

/-- The reply of a step: Ok, or the error it returned (R120). -/
def stepReply (t : State) : HostReply :=
  match t.err with
  | none => .ok
  | some e => .stepErr e

/-- An operation that can be rejected: a rejection leaves the state as it was (R121, R265, R293). -/
def orUnchanged (s : State) : Except HostErr State → State × HostReply
  | .ok t => (t, .ok)
  | .error e => (s, .hostErr e)

/-- One operation of the host on a VM: the state after it and its reply (R271). -/
def HostOp.apply (op : HostOp) (s : State) : Host.Outcome (State × HostReply) Fault Refusal :=
  match op with
  | .reset => .next (resetVM s, .ok)
  | .load data => .next (orUnchanged s (Sys2Proof.Machine.load s data))
  | .step rnd =>
    match stepWith rnd s with
    | .next t => .next (t, stepReply t)
    | .fault r => .fault r
    | .refused r => .refused r
  | .tickTimers => .next ((Sys2Proof.Machine.tickTimers s).1, .stopTone (Sys2Proof.Machine.tickTimers s).2)
  | .setKey index pressed => .next (orUnchanged s (Sys2Proof.Machine.setKey s index pressed))
  | .framebuffer => .next (s, .pixels (Sys2Proof.Machine.framebuffer s))
  | .readTimers => .next (s, .timers (toneOn s) s.DT s.ST)
  | .inspect => .next (s, .whole (Sys2Proof.Machine.inspect s))

/-- A run of host operations, one at a time (R301). -/
def runOps : List HostOp → State → Host.Outcome State Fault Refusal
  | [], s => .next s
  | op :: ops, s =>
    match op.apply s with
    | .next (t, _) => runOps ops t
    | .fault r => .fault r
    | .refused r => .refused r

end Sys2Proof.Machine
end

