-- ==== Sys2Proof/Safety.lean ====
section
/-! DEFINITION. The terms claims are stated in: what an operation may write (its frame), the error table, when a step is safe, the end-of-run predicates
of R305, the invariants, and what a sprite covers. -/

namespace Sys2Proof.Machine

/-! ## Frames -/

/-- What an operation may change, PC and the model's `err` apart. Everything not listed is unchanged. -/
structure Writes where
  /-- general registers that may change -/
  regs : List Reg := []
  /-- first address of the bytes that may change -/
  memLo : Nat := 0
  /-- how many bytes may change -/
  memLen : Nat := 0
  /-- I may change -/
  I : Bool := false
  /-- SP and the stack may change -/
  stack : Bool := false
  /-- DT may change -/
  DT : Bool := false
  /-- ST may change -/
  ST : Bool := false
  /-- the framebuffer may change -/
  fb : Bool := false
  /-- the model's draw counter may change -/
  draws : Bool := false
  deriving DecidableEq, Repr

/-- The frame: `t` differs from `s` in nothing but PC, `err` and what `w` lists. Keypad and FAULT never change. -/
structure Writes.Frame (w : Writes) (s t : State) : Prop where
  regs : ∀ r, r ∉ w.regs → t.getV r = s.getV r
  mem : ∀ a, a < w.memLo ∨ w.memLo + w.memLen ≤ a → t.mem.read a = s.mem.read a
  I : w.I = false → t.I = s.I
  SP : w.stack = false → t.SP = s.SP
  stack : w.stack = false → t.stack = s.stack
  DT : w.DT = false → t.DT = s.DT
  ST : w.ST = false → t.ST = s.ST
  fb : w.fb = false → t.fb = s.fb
  key : t.key = s.key
  FAULT : t.FAULT = s.FAULT
  draws : w.draws = false → t.draws = s.draws

/-- `t` is `s` but for FAULT and the returned error: what a failed step leaves (R121, R242). -/
def OnlyErrorRecorded (s t : State) : Prop := t = { s with FAULT := t.FAULT, err := t.err }

/-! ## The error table -/

/-- AddressRangeError at `a`, the highest address of an access, where that address does not exist (R240, R64). -/
def rangeError (s : State) (a : Nat) : Option StepErr := if 4096 ≤ a then some (.addressRange a s.PC) else none

/-- KeyRangeError for a key operand of 16 or more (R240, R222). -/
def keyOperandError (s : State) (x : Reg) : Option StepErr :=
  if 16 ≤ (s.getV x).toNat then some (.keyRange (s.getV x) s.PC) else none

/-- The check of an instruction's own rule: the error its row of R240 names, with its info, under the row's condition; none where
the condition fails, and for every instruction no row names (R240, R245). -/
def ownCheck (i : Instr) (s : State) : Option StepErr :=
  match i with
  | .call _ => if s.SP.val = 16 then some (.stackOverflow s.PC) else none
  | .ret => if s.SP.val = 0 then some (.stackUnderflow s.PC) else none
  | .drw _ _ n => if n.toNat = 0 then none else rangeError s (s.I.toNat + n.toNat - 1)
  | .ldB _ => rangeError s (s.I.toNat + 2)
  | .ldStore x | .ldLoad x => rangeError s (s.I.toNat + x.toNat)
  | .skp x | .sknp x => keyOperandError s x
  | .nop | .cls | .jp _ | .seByte _ _ | .sneByte _ _ | .seReg _ _ | .sneReg _ _ | .jpV0 _ => none
  | .ldByte _ _ | .addByte _ _ | .ldReg _ _ | .orReg _ _ | .andReg _ _ | .xorReg _ _ | .addReg _ _ => none
  | .sub _ _ | .shr _ _ | .subn _ _ | .shl _ _ | .rnd _ _ => none
  | .ldI _ | .addI _ | .ldF _ | .ldVxDT _ | .ldVxK _ | .ldDT _ | .ldST _ => none

/-- The error a step raises: FAULT's, then the fetch's, then decode's, then the instruction's own (R240, R245). -/
def stepError (s : State) : Option StepErr :=
  match s.FAULT, fetch s with
  | some f, _ => some (.recorded f)
  | none, none => some (.addressRange s.PC.toNat s.PC)
  | none, some w =>
    match decode w with
    | none => some (.unimplementedOpcode w s.PC)
    | some i => ownCheck i s

/-- The code of the error a host operation raises; those R240 names no row for never raise one. -/
def HostOp.errorCode (op : HostOp) (s : State) : Option ErrCode :=
  match op with
  | .load data => if 4096 < 512 + data.length then some .capacity else none
  | .step _ => (stepError s).map StepErr.code
  | .setKey index _ => if 16 ≤ index then some .keyArgument else none
  | .reset | .tickTimers | .framebuffer | .readTimers | .inspect => none

/-! ## Safe steps and ends of runs -/

/-- A safe step answers a next state and returned Ok (R120): no error of R240 was raised. -/
def SafeStep (s : State) : Prop := ∃ t, step s = .next t ∧ t.err = none

/-- Parked: the word at PC is a jump to itself and FAULT is not set (R305). A convention for claims: the hardware does not stop. -/
def Parked (s : State) : Prop :=
  s.FAULT = none ∧ ∃ nnn : Addr, fetch s = some (encode (.jp nnn)) ∧ nnn.toNat = s.PC.toNat

/-- Failed: FAULT is set (R305). -/
def Failed (s : State) : Prop := s.FAULT ≠ none

/-- Waiting: at LD Vx, K with no key pressed (R305). -/
def Waiting (s : State) : Prop :=
  s.FAULT = none ∧ (∃ x : Reg, fetch s = some (encode (.ldVxK x))) ∧ ∀ k : Fin 16, s.key[k.val] = false

/-! ## Invariants -/

/-- A FAULT record holds a fatal code and the address PC still has; it holds no word iff the fetch raised, and then the error is
AddressRangeError at an address with no two bytes; and an unimplemented word is an illegal one (R242, R243). -/
def FaultConsistent (s : State) : Prop :=
  ∀ f, s.FAULT = some f →
    f.code.fatal = true ∧ f.pc = s.PC ∧
    (f.opcode = none → f.code = .addressRange ∧ f.pc.toNat ≥ 4095) ∧
    (f.opcode ≠ none → f.pc.toNat < 4095) ∧
    (∀ w, f.opcode = some w → (f.code = .unimplementedOpcode ↔ decode w = none))

/-- PC is in the reach of R125 (at most 0x10FE) and every entry in use is the address after some CALL, at most 4096 (R142). -/
def PcInReach (s : State) : Prop :=
  s.PC.toNat ≤ 0x10FE ∧ ∀ j : Fin 16, j.val < s.SP.val → s.stack[j.val].toNat ≤ 4096

/-- The invariant: memory in its canonical form, FAULT consistent, PC and return addresses in reach. -/
structure Inv (s : State) : Prop where
  mem : s.mem.wf = true
  fault : FaultConsistent s
  pc : PcInReach s

/-! ## Sprites -/

/-- The sprite of `n` bytes at I, drawn at column X and row Y, has a set bit on pixel (c, r): bit 7 - j of byte k lies on column
(X + j) mod 64 of row (Y + k) mod 32 (R201). -/
def SpriteCovers (s : State) (X Y n : Nat) (r : Fin 32) (c : Fin 64) : Prop :=
  ∃ k < n, ∃ j < 8, (Y + k) % 32 = r.val ∧ (X + j) % 64 = c.val ∧ (s.mem.read (s.I.toNat + k)).getLsbD (7 - j) = true

end Sys2Proof.Machine
end

