-- ==== Sys2Proof/Certificates/Slice0/Obligations.lean ====
section
/-! DEFINITION. The statements for the provers, in the order of OBLIGATIONS.json. `Writes.Frame`, `OnlyErrorRecorded`, `SpriteCovers` and
`Inv` are defined in Sys2Proof/Safety.lean. In each, `s` is the state at the fetch (PC = p) and `t.err` is
what the step returned: `none` for Ok, `some e` for an error taken as a next state (log entry 2). `ownCheck`, `stepError` and
`HostOp.errorCode` are the error table of R240 read as conditions, in the same file. -/

open Sys2Proof Sys2Proof.Machine

/-- Every instruction decodes from its own word. Rests on R92, R93, R124. For every instruction, with every operand at every
value, decode of its encoded word is that instruction, and so is decoding its two bytes big-endian, with the bytes that follow
left over. -/
def Obligations.DecodeOfEncodeIsTheInstruction : Prop :=
  ∀ (i : Instr) (rest : List Byte),
    decode (encode i) = some i ∧ decodeBytes (encodeBytes i ++ rest) = .ok (i, rest)

/-- A legal word is the encoding of what it decodes to. Rests on R91, R95. For every word, if it decodes to an instruction then
encoding that instruction gives the word back, so no bit of a legal word is dropped and no two words decode to one
instruction. -/
def Obligations.DecodedInstructionEncodesToItsWord : Prop :=
  ∀ (w : Word) (i : Instr), decode w = some i → encode i = w

/-- A word decodes iff it matches exactly one row of the opcode map, and rows are disjoint. Rests on R93, R95. The opcode map has
35 rows; no word matches two of them; a word decodes to an instruction iff it matches exactly one; and the row it matches is
that instruction's row. -/
def Obligations.DecoderAcceptsExactlyTheOpcodeMap : Prop :=
  opcodeMap.length = 35 ∧
  ∀ w : Word,
    (opcodeMap.filter fun r => r.covers w).length ≤ 1 ∧
    (decode w).isSome = wordLegal w ∧
    ∀ i, decode w = some i → ∃ r, opcodeMap[i.row]? = some r ∧ r.covers w = true

/-- Exactly the words of the illegal table do not decode, and a step on one takes the fatal error. Rests on R94, R124, R240, R243.
A word does not decode iff it is 0nnn other than 0000, 00E0, 00EE, or 5xyn or 9xyn with n not 0, or 8xyn with n in 8..D or F,
or ExNN with NN not 9E or A1, or FxNN with NN not one of the nine listed. A step that fetches such a word on a machine with
FAULT none changes only FAULT, which becomes (UnimplementedOpcodeError, p, word), and returns that error. That FAULT records
the error is the spec's own decision D4 (log entry 5). -/
def Obligations.IllegalWordsAreThoseOfTheTable : Prop :=
  (∀ w : Word, decode w = none ↔
    (Word.n1 w = 0x0#4 ∧ w ≠ 0x0000#16 ∧ w ≠ 0x00E0#16 ∧ w ≠ 0x00EE#16) ∨
    ((Word.n1 w = 0x5#4 ∨ Word.n1 w = 0x9#4) ∧ Word.n w ≠ 0x0#4) ∨
    (Word.n1 w = 0x8#4 ∧ Word.n w ∈ [0x8#4, 0x9#4, 0xA#4, 0xB#4, 0xC#4, 0xD#4, 0xF#4]) ∨
    (Word.n1 w = 0xE#4 ∧ Word.kk w ∉ [0x9E#8, 0xA1#8]) ∨
    (Word.n1 w = 0xF#4 ∧
      Word.kk w ∉ [0x07#8, 0x0A#8, 0x15#8, 0x18#8, 0x1E#8, 0x29#8, 0x33#8, 0x55#8, 0x65#8])) ∧
  ∀ (s : State) (w : Word), s.FAULT = none → fetch s = some w → decode w = none →
    ∃ t, step s = .next t ∧ OnlyErrorRecorded s t ∧
      t.FAULT = some ⟨.unimplementedOpcode, s.PC, some w⟩ ∧ t.err = some (.unimplementedOpcode w s.PC)

/-- One word of each format and family decodes to the instruction it stands for. Rests on R92, R93. The words 00E0, 1ABC, 30FF,
8AB6, 9120, A123, C00F, D015, E39E, F21E, FA33 and FF65 decode to the instructions the opcode map gives, with their operand
fields; 5121 and 0123 do not decode. -/
def Obligations.SampleWordsDecode : Prop :=
  decode 0x00E0#16 = some .cls ∧ decode 0x1ABC#16 = some (.jp 0xABC#12) ∧
  decode 0x30FF#16 = some (.seByte 0x0#4 0xFF#8) ∧ decode 0x8AB6#16 = some (.shr 0xA#4 0xB#4) ∧
  decode 0x9120#16 = some (.sneReg 0x1#4 0x2#4) ∧ decode 0xA123#16 = some (.ldI 0x123#12) ∧
  decode 0xC00F#16 = some (.rnd 0x0#4 0x0F#8) ∧ decode 0xD015#16 = some (.drw 0x0#4 0x1#4 0x5#4) ∧
  decode 0xE39E#16 = some (.skp 0x3#4) ∧ decode 0xF21E#16 = some (.addI 0x2#4) ∧
  decode 0xFA33#16 = some (.ldB 0xA#4) ∧ decode 0xFF65#16 = some (.ldLoad 0xF#4) ∧
  decode 0x5121#16 = none ∧ decode 0x0123#16 = none

/-- A step runs the instruction whose big-endian word stands at PC. Rests on R66, R120, R122, R125. On a machine with FAULT none
and two bytes at PC that decode, high byte first, to an instruction i, the step is exec of i at that state, and the step with
a given random input is execute of i with that input. Nothing is added around exec: each meaning advances PC by 2 itself. -/
def Obligations.StepRunsTheDecodedInstruction : Prop :=
  ∀ (s : State) (i : Instr), s.FAULT = none → s.PC.toNat + 2 ≤ 4096 →
    decodeBytes (s.mem.readBytes s.PC.toNat 2) = .ok (i, []) →
    step s = exec i s ∧ ∀ rnd : Byte, stepWith rnd s = execWith rnd i s

/-- The machine's step is step(S, rnd) at the next free draw. Rests on R123. For every state the step equals the step given the
random input Config.rnd at the state's draw counter; and an instruction other than RND gives the same outcome for every random
input. That the input is the n-th draw of a free sequence is the model's choice (log entry 3). -/
def Obligations.StepIsStepWithTheNextDraw : Prop :=
  (∀ s : State, step s = stepWith (Config.rnd s.draws) s) ∧
  ∀ (s : State) (i : Instr) (r r' : Byte), (∀ x kk, i ≠ .rnd x kk) → execWith r i s = execWith r' i s

/-- A fetch at PC 4095 or above takes the fatal AddressRangeError with no word recorded. Rests on R64, R122, R240, R243. With
FAULT none, if PC is 4095 or more the step changes only FAULT, which becomes (AddressRangeError, p, none), and returns
AddressRangeError(p). The error is the spec's own decision D5, and that FAULT records it is its decision D4 (log entry 5). -/
def Obligations.FetchPastTheEndTakesAddressRange : Prop :=
  ∀ s : State, s.FAULT = none → 4095 ≤ s.PC.toNat →
    ∃ t, step s = .next t ∧ OnlyErrorRecorded s t ∧
      t.FAULT = some ⟨.addressRange, s.PC, none⟩ ∧ t.err = some (.addressRange s.PC.toNat s.PC)

/-- While FAULT is set a step changes nothing and returns the recorded error. Rests on R28, R120, R243. For every state with FAULT
= f and every random input, the step answers a state that differs only in the returned error, which is the record f, whose
code is the code f records. That FAULT sticks is the spec's own decision D4 (log entry 5). That an error is taken as a next
state with the error in err is the model's own form of Err (log entry 2). -/
def Obligations.FaultedStepReturnsTheRecord : Prop :=
  ∀ (s : State) (f : FaultRecord) (rnd : Byte), s.FAULT = some f →
    ∃ t, step s = .next t ∧ stepWith rnd s = .next t ∧ t = { s with err := some (.recorded f) } ∧
      (StepErr.recorded f).code = f.code

/-- A failed step changes nothing but FAULT, and that only for a fatal error. Rests on R120, R121, R243. For every state and
random input the step answers a next state. If it returned an error, every element of the state but FAULT is as before the
step, PC included; FAULT becomes (code, p, the fetched word or none) if the error is fatal and FAULT was none, and is
unchanged otherwise. If it returned Ok, FAULT was none and is none. That every failed step is all-or-nothing and that FAULT
sticks are the spec's own decisions D3 and D4 (log entry 5). That a failed step, too, answers a next state, with the error in
err, is the model's choice (log entry 2, DESIGN CHOICE). -/
def Obligations.FailedStepChangesOnlyFault : Prop :=
  ∀ (s : State) (rnd : Byte), ∃ t, stepWith rnd s = .next t ∧
    (∀ e, t.err = some e →
      OnlyErrorRecorded s t ∧
      (e.code.fatal = true → s.FAULT = none → t.FAULT = some ⟨e.code, s.PC, fetch s⟩) ∧
      (e.code.fatal = false ∨ s.FAULT ≠ none → t.FAULT = s.FAULT)) ∧
    (t.err = none → s.FAULT = none ∧ t.FAULT = none)

/-- A recoverable error leaves FAULT alone and the next step raises it again. Rests on R240, R242, R244. Fatal codes are exactly
2, 5 and 6. If a step of a machine with FAULT none returns an error whose code is not fatal, FAULT is still none, nothing
changed, and the next step, whatever its random input, returns the same error and the same state. The numeric codes are the
spec's own decision D16, and that nothing changed is its decision D3 (log entry 5); that the error is a next state is the
model's choice (log entry 2). -/
def Obligations.RecoverableErrorRepeats : Prop :=
  (∀ c : ErrCode, c.fatal = true ↔ c.number = 2 ∨ c.number = 5 ∨ c.number = 6) ∧
  ∀ (s t : State) (rnd : Byte) (e : StepErr), s.FAULT = none → stepWith rnd s = .next t → t.err = some e →
    e.code.fatal = false →
    t.FAULT = none ∧ OnlyErrorRecorded s t ∧ ∀ rnd' : Byte, stepWith rnd' t = .next t

/-- Which error a step returns: FAULT first, then fetch range, then decode, then the instruction's own check. Rests on R245. For
every state, the error a step returns is determined in this order: with FAULT set it is the record; otherwise with PC at 4095
or above it is AddressRangeError(p); otherwise with an illegal word it is UnimplementedOpcodeError of that word; otherwise it
is what the decoded instruction returns, and an error then is a stack, address-range or key-range error. The order is the
spec's own decision D28 (log entry 5). -/
def Obligations.ErrorsFollowThePriority : Prop :=
  ∀ (s t : State) (rnd : Byte), stepWith rnd s = .next t →
    (∀ f, s.FAULT = some f → t.err = some (.recorded f)) ∧
    (s.FAULT = none → 4095 ≤ s.PC.toNat → t.err = some (.addressRange s.PC.toNat s.PC)) ∧
    (∀ w, s.FAULT = none → fetch s = some w → decode w = none → t.err = some (.unimplementedOpcode w s.PC)) ∧
    (∀ w i, s.FAULT = none → fetch s = some w → decode w = some i →
      execWith rnd i s = .next t ∧
      ∀ e, t.err = some e →
        e = .stackOverflow s.PC ∨ e = .stackUnderflow s.PC ∨
        (∃ a, 4096 ≤ a ∧ e = .addressRange a s.PC) ∨ (∃ v : Byte, 16 ≤ v.toNat ∧ e = .keyRange v s.PC))

/-- A word placed where the next step fetches is the instruction the next step runs. Rests on R23, R66, R122. For every state and
every word of the opcode table's numbering that decodes to i, the step of the state with that word placed runs exec of i; the
placing changes nothing but PC, FAULT and the two bytes at PC. withFetchWord is no operation of the block but the model's
choice (log entry 7, DESIGN CHOICE): that it clears FAULT, and that it moves PC to 512 where no room is left, is no rule of
the spec; R23, R66 and R122 give the start address, the byte order and the fetch. -/
def Obligations.PlacedWordIsTheNextInstruction : Prop :=
  ∀ (s : State) (nbits w : Nat) (i : Instr), decodeTableWord nbits w = some i →
    let p := s.withFetchWord nbits w
    step p = exec i p ∧ p = { s with PC := p.PC, FAULT := none, mem := p.mem } ∧
    (s.PC.toNat + 2 ≤ 4096 → p.PC = s.PC) ∧
    ∀ a, a < p.PC.toNat ∨ p.PC.toNat + 2 ≤ a → p.mem.read a = s.mem.read a

/-- NOP advances PC by 2 and does nothing else. Rests on R140. The word 0000 decodes to NOP. For every state exec of NOP answers a
next state with Ok, PC = p + 2 and every other element unchanged. -/
def Obligations.NopOnlyAdvancesPc : Prop :=
  decode 0x0000#16 = some .nop ∧
  ∀ s : State, ∃ t, exec .nop s = .next t ∧ t.err = none ∧ t.PC = s.PC + 2#16 ∧ ({} : Writes).Frame s t

/-- RET pops PC; with an empty stack it returns StackUnderflowError and changes nothing. Formalises R142. The word 00EE decodes to
RET. With SP > 0 exec of RET answers Ok with SP one less and PC = stack[SP - 1], the stack keeping its values; everything else
is unchanged. With SP = 0 it returns StackUnderflowError(p), recoverable, and changes nothing. -/
def Obligations.RetPopsTheStack : Prop :=
  decode 0x00EE#16 = some .ret ∧
  (∀ s : State, 0 < s.SP.val → ∃ t, exec .ret s = .next t ∧ t.err = none ∧
    t.SP.val = s.SP.val - 1 ∧ s.stack[s.SP.val - 1]? = some t.PC ∧ t.stack = s.stack ∧
    ({ stack := true } : Writes).Frame s t) ∧
  ∀ s : State, s.SP.val = 0 → ∃ t, exec .ret s = .next t ∧ OnlyErrorRecorded s t ∧ t.FAULT = s.FAULT ∧
    t.err = some (.stackUnderflow s.PC)

/-- JP addr sets PC to the 12-bit address. Formalises R143. The word 1nnn decodes to JP nnn. For every state exec of it answers Ok
with PC = nnn zero-extended and every other element unchanged. -/
def Obligations.JpSetsPc : Prop :=
  ∀ (nnn : Addr) (s : State), decode (0x1#4 ++ nnn) = some (.jp nnn) ∧
    ∃ t, exec (.jp nnn) s = .next t ∧ t.err = none ∧ t.PC.toNat = nnn.toNat ∧ ({} : Writes).Frame s t

/-- CALL pushes p + 2 and jumps; with 16 entries in use it returns StackOverflowError and changes nothing. Formalises R144. The
word 2nnn decodes to CALL nnn. With SP < 16 exec of it answers Ok with stack[SP] = p + 2, the other entries kept, SP one more,
PC = nnn; everything else is unchanged. With SP = 16 it returns StackOverflowError(p), recoverable, and changes nothing. -/
def Obligations.CallPushesTheReturnAddress : Prop :=
  ∀ (nnn : Addr) (s : State), decode (0x2#4 ++ nnn) = some (.call nnn) ∧
    (s.SP.val < 16 → ∃ t, exec (.call nnn) s = .next t ∧ t.err = none ∧
      t.stack[s.SP.val]? = some (s.PC + 2#16) ∧ (∀ j, j ≠ s.SP.val → t.stack[j]? = s.stack[j]?) ∧
      t.SP.val = s.SP.val + 1 ∧ t.PC.toNat = nnn.toNat ∧ ({ stack := true } : Writes).Frame s t) ∧
    (s.SP.val = 16 → ∃ t, exec (.call nnn) s = .next t ∧ OnlyErrorRecorded s t ∧ t.FAULT = s.FAULT ∧
      t.err = some (.stackOverflow s.PC))

/-- A RET after a CALL returns to the instruction after the CALL, with SP as before. Rests on R142, R144. For every state with SP
< 16, a CALL followed by a RET, both Ok, gives PC = p + 2 and the SP, registers, memory and framebuffer from before the call. -/
def Obligations.RetAfterCallReturnsBehindTheCall : Prop :=
  ∀ (nnn : Addr) (s : State), s.SP.val < 16 →
    ∃ t u, exec (.call nnn) s = .next t ∧ exec .ret t = .next u ∧ t.err = none ∧ u.err = none ∧
      u.PC = s.PC + 2#16 ∧ u.SP = s.SP ∧ u.V = s.V ∧ u.mem = s.mem ∧ u.fb = s.fb ∧ u.I = s.I

/-- SE and SNE Vx, byte skip on equality and on inequality. Formalises R145, R146. The words 3xkk and 4xkk decode to SE Vx, kk and
SNE Vx, kk. Both answer Ok; SE leaves PC = p + 4 if Vx = kk and p + 2 otherwise, SNE the other way round; every other element
is unchanged. -/
def Obligations.SkipsOnByteOperand : Prop :=
  ∀ (x : Reg) (kk : Byte) (s : State),
    decode (0x3#4 ++ x ++ kk) = some (.seByte x kk) ∧ decode (0x4#4 ++ x ++ kk) = some (.sneByte x kk) ∧
    (∃ t, exec (.seByte x kk) s = .next t ∧ t.err = none ∧
      t.PC = (if s.getV x = kk then s.PC + 4#16 else s.PC + 2#16) ∧ ({} : Writes).Frame s t) ∧
    (∃ t, exec (.sneByte x kk) s = .next t ∧ t.err = none ∧
      t.PC = (if s.getV x ≠ kk then s.PC + 4#16 else s.PC + 2#16) ∧ ({} : Writes).Frame s t)

/-- SE and SNE Vx, Vy skip on equality and on inequality of two registers. Formalises R147, R148. The words 5xy0 and 9xy0 decode
to SE Vx, Vy and SNE Vx, Vy, and with a last nibble other than 0 they are illegal. Both answer Ok; SE leaves PC = p + 4 if Vx
= Vy and p + 2 otherwise, SNE the other way round; every other element is unchanged. -/
def Obligations.SkipsOnRegisterOperand : Prop :=
  ∀ (x y : Reg) (s : State),
    decode (0x5#4 ++ x ++ y ++ 0x0#4) = some (.seReg x y) ∧ decode (0x9#4 ++ x ++ y ++ 0x0#4) = some (.sneReg x y) ∧
    (∀ n : Nibble, n ≠ 0x0#4 → decode (0x5#4 ++ x ++ y ++ n) = none ∧ decode (0x9#4 ++ x ++ y ++ n) = none) ∧
    (∃ t, exec (.seReg x y) s = .next t ∧ t.err = none ∧
      t.PC = (if s.getV x = s.getV y then s.PC + 4#16 else s.PC + 2#16) ∧ ({} : Writes).Frame s t) ∧
    (∃ t, exec (.sneReg x y) s = .next t ∧ t.err = none ∧
      t.PC = (if s.getV x ≠ s.getV y then s.PC + 4#16 else s.PC + 2#16) ∧ ({} : Writes).Frame s t)

/-- JP V0, addr sets PC to nnn + V0, not masked. Rests on R149. The word Bnnn decodes to JP V0, nnn. For every state exec of it
answers Ok with PC = nnn + V0 as naturals, at most 0x10FE, and every other element unchanged. That the sum is not masked is
the spec's own decision D27 (log entry 5). -/
def Obligations.JpV0AddsV0Unmasked : Prop :=
  ∀ (nnn : Addr) (s : State), decode (0xB#4 ++ nnn) = some (.jpV0 nnn) ∧
    ∃ t, exec (.jpV0 nnn) s = .next t ∧ t.err = none ∧ t.PC.toNat = nnn.toNat + (s.getV 0x0#4).toNat ∧
      t.PC.toNat ≤ 0x10FE ∧ ({} : Writes).Frame s t

/-- LD Vx, byte loads and ADD Vx, byte adds modulo 256, with no flag. Formalises R160, R161. The words 6xkk and 7xkk decode to LD
Vx, kk and ADD Vx, kk. Both answer Ok with PC = p + 2; LD leaves Vx = kk, ADD leaves Vx = (Vx + kk) mod 256; every other
element is unchanged, VF too unless x is 0xF. -/
def Obligations.LoadAndAddByte : Prop :=
  ∀ (x : Reg) (kk : Byte) (s : State),
    decode (0x6#4 ++ x ++ kk) = some (.ldByte x kk) ∧ decode (0x7#4 ++ x ++ kk) = some (.addByte x kk) ∧
    (∃ t, exec (.ldByte x kk) s = .next t ∧ t.err = none ∧ t.PC = s.PC + 2#16 ∧ t.getV x = kk ∧
      ({ regs := [x] } : Writes).Frame s t) ∧
    (∃ t, exec (.addByte x kk) s = .next t ∧ t.err = none ∧ t.PC = s.PC + 2#16 ∧
      (t.getV x).toNat = ((s.getV x).toNat + kk.toNat) % 256 ∧ ({ regs := [x] } : Writes).Frame s t)

/-- LD, OR, AND and XOR Vx, Vy; VF is not cleared. Formalises R162, R163, R164, R165. The words 8xy0 to 8xy3 decode to LD, OR, AND
and XOR Vx, Vy. Each answers Ok with PC = p + 2, Vx = Vy, Vx or Vy, Vx and Vy, Vx xor Vy, bit by bit, and every other element
unchanged, VF too unless x is 0xF. -/
def Obligations.RegisterCopyAndLogic : Prop :=
  ∀ (x y : Reg) (s : State),
    decode (0x8#4 ++ x ++ y ++ 0x0#4) = some (.ldReg x y) ∧ decode (0x8#4 ++ x ++ y ++ 0x1#4) = some (.orReg x y) ∧
    decode (0x8#4 ++ x ++ y ++ 0x2#4) = some (.andReg x y) ∧ decode (0x8#4 ++ x ++ y ++ 0x3#4) = some (.xorReg x y) ∧
    (∃ t, exec (.ldReg x y) s = .next t ∧ t.err = none ∧ t.PC = s.PC + 2#16 ∧ t.getV x = s.getV y ∧
      ({ regs := [x] } : Writes).Frame s t) ∧
    (∃ t, exec (.orReg x y) s = .next t ∧ t.err = none ∧ t.PC = s.PC + 2#16 ∧
      (∀ b, (t.getV x).getLsbD b = ((s.getV x).getLsbD b || (s.getV y).getLsbD b)) ∧
      ({ regs := [x] } : Writes).Frame s t) ∧
    (∃ t, exec (.andReg x y) s = .next t ∧ t.err = none ∧ t.PC = s.PC + 2#16 ∧
      (∀ b, (t.getV x).getLsbD b = ((s.getV x).getLsbD b && (s.getV y).getLsbD b)) ∧
      ({ regs := [x] } : Writes).Frame s t) ∧
    (∃ t, exec (.xorReg x y) s = .next t ∧ t.err = none ∧ t.PC = s.PC + 2#16 ∧
      (∀ b, (t.getV x).getLsbD b = ((s.getV x).getLsbD b ^^ (s.getV y).getLsbD b)) ∧
      ({ regs := [x] } : Writes).Frame s t)

/-- ADD Vx, Vy: the sum modulo 256 and VF = carry, the flag winning in VF. Formalises R166. The word 8xy4 decodes to ADD Vx, Vy.
It answers Ok with PC = p + 2; VF = 1 if the old Vx + Vy exceeds 255 and 0 otherwise, also when x is 0xF; when x is not 0xF,
Vx = (Vx + Vy) mod 256; every other element is unchanged. -/
def Obligations.AddRegistersSetsCarry : Prop :=
  ∀ (x y : Reg) (s : State), decode (0x8#4 ++ x ++ y ++ 0x4#4) = some (.addReg x y) ∧
    ∃ t, exec (.addReg x y) s = .next t ∧ t.err = none ∧ t.PC = s.PC + 2#16 ∧
      t.getV vF = (if (s.getV x).toNat + (s.getV y).toNat > 255 then 1#8 else 0#8) ∧
      (x ≠ vF → (t.getV x).toNat = ((s.getV x).toNat + (s.getV y).toNat) % 256) ∧
      ({ regs := [x, vF] } : Writes).Frame s t

/-- SUB Vx, Vy: the difference modulo 256 and VF = 1 iff no borrow. Formalises R167. The word 8xy5 decodes to SUB Vx, Vy. It
answers Ok with PC = p + 2; VF = 1 if the old Vx >= Vy and 0 otherwise, also when x is 0xF; when x is not 0xF, Vx = (Vx - Vy)
mod 256; every other element is unchanged. -/
def Obligations.SubSetsNoBorrow : Prop :=
  ∀ (x y : Reg) (s : State), decode (0x8#4 ++ x ++ y ++ 0x5#4) = some (.sub x y) ∧
    ∃ t, exec (.sub x y) s = .next t ∧ t.err = none ∧ t.PC = s.PC + 2#16 ∧
      t.getV vF = (if (s.getV x).toNat ≥ (s.getV y).toNat then 1#8 else 0#8) ∧
      (x ≠ vF → ((t.getV x).toNat : Int) = (((s.getV x).toNat : Int) - (s.getV y).toNat) % 256) ∧
      ({ regs := [x, vF] } : Writes).Frame s t

/-- SUBN Vx, Vy: Vy - Vx modulo 256 and VF = 1 iff a borrow occurred. Formalises R169. The word 8xy7 decodes to SUBN Vx, Vy. It
answers Ok with PC = p + 2; VF = 1 if the old Vy < Vx and 0 otherwise, also when x is 0xF; when x is not 0xF, Vx = (Vy - Vx)
mod 256; every other element is unchanged. -/
def Obligations.SubnSetsBorrow : Prop :=
  ∀ (x y : Reg) (s : State), decode (0x8#4 ++ x ++ y ++ 0x7#4) = some (.subn x y) ∧
    ∃ t, exec (.subn x y) s = .next t ∧ t.err = none ∧ t.PC = s.PC + 2#16 ∧
      t.getV vF = (if (s.getV y).toNat < (s.getV x).toNat then 1#8 else 0#8) ∧
      (x ≠ vF → ((t.getV x).toNat : Int) = (((s.getV y).toNat : Int) - (s.getV x).toNat) % 256) ∧
      ({ regs := [x, vF] } : Writes).Frame s t

/-- SHR Vx shifts right by one and VF gets bit 0; for x = 0xF the value SHIFT_VF_ORDER gives. Formalises R168. The word 8xy6
decodes to SHR Vx for every y. Exec of it answers the next state shrWith gives under the parameter SHIFT_VF_ORDER. Under
EITHER value of the parameter that state has Ok and PC = p + 2; when x is not 0xF, Vx is half the old Vx and VF its old bit 0;
when x is 0xF, VF is 0 under SEQUENTIAL and the old bit 0 under FLAG_LAST; every other element is unchanged, Vy too. -/
def Obligations.ShrUnderEitherOrder : Prop :=
  ∀ (x y : Reg) (s : State), decode (0x8#4 ++ x ++ y ++ 0x6#4) = some (.shr x y) ∧
    (∃ t, exec (.shr x y) s = .next t ∧ t = shrWith shiftVfOrder x s.advance) ∧
    ∀ order : ShiftVfOrder, ∃ t, shrWith order x s.advance = t ∧ t.err = none ∧ t.PC = s.PC + 2#16 ∧
      (x ≠ vF → (t.getV x).toNat = (s.getV x).toNat / 2 ∧ (t.getV vF).toNat = (s.getV x).toNat % 2) ∧
      (x = vF → order = .sequential → (t.getV vF).toNat = 0) ∧
      (x = vF → order = .flagLast → (t.getV vF).toNat = (s.getV vF).toNat % 2) ∧
      ({ regs := [x, vF] } : Writes).Frame s t

/-- SHL Vx shifts left by one and VF gets bit 7; for x = 0xF the value SHIFT_VF_ORDER gives. Formalises R170. The word 8xyE
decodes to SHL Vx for every y. Exec of it answers the next state shlWith gives under the parameter SHIFT_VF_ORDER. Under
EITHER value of the parameter that state has Ok and PC = p + 2; when x is not 0xF, Vx is twice the old Vx modulo 256 and VF
its old bit 7; when x is 0xF, VF is twice the old bit 7 under SEQUENTIAL and the old bit 7 under FLAG_LAST; every other
element is unchanged, Vy too. -/
def Obligations.ShlUnderEitherOrder : Prop :=
  ∀ (x y : Reg) (s : State), decode (0x8#4 ++ x ++ y ++ 0xE#4) = some (.shl x y) ∧
    (∃ t, exec (.shl x y) s = .next t ∧ t = shlWith shiftVfOrder x s.advance) ∧
    ∀ order : ShiftVfOrder, ∃ t, shlWith order x s.advance = t ∧ t.err = none ∧ t.PC = s.PC + 2#16 ∧
      (x ≠ vF → (t.getV x).toNat = (s.getV x).toNat * 2 % 256 ∧ (t.getV vF).toNat = (s.getV x).toNat / 128) ∧
      (x = vF → order = .sequential → (t.getV vF).toNat = 2 * ((s.getV vF).toNat / 128)) ∧
      (x = vF → order = .flagLast → (t.getV vF).toNat = (s.getV vF).toNat / 128) ∧
      ({ regs := [x, vF] } : Writes).Frame s t

/-- RND Vx, byte leaves Vx = rnd and kk, for every random input. Rests on R171. The word Cxkk decodes to RND Vx, kk. Execute of it
with ANY random input rnd answers Ok with PC = p + 2, Vx = rnd and kk, every other element of the block unchanged. Exec of it
is this at the next draw Config.rnd, a constant with no body, so the statement holds for every value of it; the draw counter
is the model's own (log entry 3). -/
def Obligations.RndMasksTheDraw : Prop :=
  ∀ (x : Reg) (kk : Byte) (s : State), decode (0xC#4 ++ x ++ kk) = some (.rnd x kk) ∧
    (∀ rnd : Byte, ∃ t, execWith rnd (.rnd x kk) s = .next t ∧ t.err = none ∧ t.PC = s.PC + 2#16 ∧
      t.getV x = rnd &&& kk ∧ ({ regs := [x], draws := true } : Writes).Frame s t) ∧
    ∃ t, exec (.rnd x kk) s = .next t ∧ t.err = none ∧ t.PC = s.PC + 2#16 ∧
      t.getV x = Config.rnd s.draws &&& kk ∧ t.draws = s.draws + 1 ∧
      ({ regs := [x], draws := true } : Writes).Frame s t

/-- LD I, ADD I and LD F write I, all 16 bits, with no flag. Formalises R180, R182, R183. The words Annn, Fx1E and Fx29 decode to
LD I, nnn, ADD I, Vx and LD F, Vx. Each answers Ok with PC = p + 2 and writes I alone: nnn, (I + Vx) mod 65536, and 5 Vx with
Vx not masked. -/
def Obligations.IndexRegisterWrites : Prop :=
  ∀ (nnn : Addr) (x : Reg) (s : State),
    decode (0xA#4 ++ nnn) = some (.ldI nnn) ∧ decode (0xF#4 ++ x ++ 0x1E#8) = some (.addI x) ∧
    decode (0xF#4 ++ x ++ 0x29#8) = some (.ldF x) ∧
    (∃ t, exec (.ldI nnn) s = .next t ∧ t.err = none ∧ t.PC = s.PC + 2#16 ∧ t.I.toNat = nnn.toNat ∧
      ({ I := true } : Writes).Frame s t) ∧
    (∃ t, exec (.addI x) s = .next t ∧ t.err = none ∧ t.PC = s.PC + 2#16 ∧
      t.I.toNat = (s.I.toNat + (s.getV x).toNat) % 65536 ∧ ({ I := true } : Writes).Frame s t) ∧
    (∃ t, exec (.ldF x) s = .next t ∧ t.err = none ∧ t.PC = s.PC + 2#16 ∧
      t.I.toNat = 5 * (s.getV x).toNat ∧ ({ I := true } : Writes).Frame s t)

/-- LD B, Vx stores the decimal digits of Vx at I, I + 1, I + 2, or raises AddressRangeError(I + 2) and stores nothing. Rests on
R184, R240, R243. The word Fx33 decodes to LD B, Vx. With I + 2 < 4096 exec of it answers Ok with PC = p + 2 and the bytes Vx
div 100, (Vx div 10) mod 10, Vx mod 10 at I, I + 1, I + 2; every other byte and every other element is unchanged, I too.
Otherwise it changes only FAULT, to (AddressRangeError, p, word), and returns AddressRangeError(I + 2). The error is the
spec's own decision D5, and that FAULT records it is its decision D4 (log entry 5). -/
def Obligations.BcdStoresThreeDigits : Prop :=
  ∀ (x : Reg) (s : State), decode (0xF#4 ++ x ++ 0x33#8) = some (.ldB x) ∧
    (s.I.toNat + 2 < 4096 → ∃ t, exec (.ldB x) s = .next t ∧ t.err = none ∧ t.PC = s.PC + 2#16 ∧
      (t.mem.read s.I.toNat).toNat = (s.getV x).toNat / 100 ∧
      (t.mem.read (s.I.toNat + 1)).toNat = (s.getV x).toNat / 10 % 10 ∧
      (t.mem.read (s.I.toNat + 2)).toNat = (s.getV x).toNat % 10 ∧
      ({ memLo := s.I.toNat, memLen := 3 } : Writes).Frame s t) ∧
    (s.I.toNat + 2 ≥ 4096 → ∃ t, exec (.ldB x) s = .next t ∧ OnlyErrorRecorded s t ∧
      t.FAULT = some ⟨.addressRange, s.PC, some (0xF#4 ++ x ++ 0x33#8)⟩ ∧
      t.err = some (.addressRange (s.I.toNat + 2) s.PC))

/-- LD [I], Vx stores V0..Vx at I.., or raises AddressRangeError(I + x) and stores nothing. Rests on R185, R240, R243. The word
Fx55 decodes to LD [I], Vx. With I + x < 4096 exec of it answers Ok with PC = p + 2 and mem[I + k] = Vk for every k from 0 to
x; every other byte and every other element is unchanged, I too. Otherwise it changes only FAULT, to (AddressRangeError, p,
word), and returns AddressRangeError(I + x). That I is unchanged is the spec's own decision D14 (log entry 5). The error is
its decision D5, and that FAULT records it is its decision D4 (log entry 5). -/
def Obligations.BlockStoreWritesV0ToVx : Prop :=
  ∀ (x : Reg) (s : State), decode (0xF#4 ++ x ++ 0x55#8) = some (.ldStore x) ∧
    (s.I.toNat + x.toNat < 4096 → ∃ t, exec (.ldStore x) s = .next t ∧ t.err = none ∧ t.PC = s.PC + 2#16 ∧
      (∀ k : Reg, k.toNat ≤ x.toNat → t.mem.read (s.I.toNat + k.toNat) = s.getV k) ∧
      ({ memLo := s.I.toNat, memLen := x.toNat + 1 } : Writes).Frame s t) ∧
    (s.I.toNat + x.toNat ≥ 4096 → ∃ t, exec (.ldStore x) s = .next t ∧ OnlyErrorRecorded s t ∧
      t.FAULT = some ⟨.addressRange, s.PC, some (0xF#4 ++ x ++ 0x55#8)⟩ ∧
      t.err = some (.addressRange (s.I.toNat + x.toNat) s.PC))

/-- LD Vx, [I] loads V0..Vx from I.., or raises AddressRangeError(I + x) and loads nothing. Rests on R186, R240, R243. The word
Fx65 decodes to LD Vx, [I]. With I + x < 4096 exec of it answers Ok with PC = p + 2 and Vk = mem[I + k] for every k from 0 to
x; every other register and every other element is unchanged, I and memory too. Otherwise it changes only FAULT, to
(AddressRangeError, p, word), and returns AddressRangeError(I + x). That I is unchanged is the spec's own decision D14 (log
entry 5). The error is its decision D5, and that FAULT records it is its decision D4 (log entry 5). -/
def Obligations.BlockLoadReadsV0ToVx : Prop :=
  ∀ (x : Reg) (s : State), decode (0xF#4 ++ x ++ 0x65#8) = some (.ldLoad x) ∧
    (s.I.toNat + x.toNat < 4096 → ∃ t, exec (.ldLoad x) s = .next t ∧ t.err = none ∧ t.PC = s.PC + 2#16 ∧
      (∀ k : Reg, k.toNat ≤ x.toNat → t.getV k = s.mem.read (s.I.toNat + k.toNat)) ∧
      ({ regs := (List.range (x.toNat + 1)).map (BitVec.ofNat 4) } : Writes).Frame s t) ∧
    (s.I.toNat + x.toNat ≥ 4096 → ∃ t, exec (.ldLoad x) s = .next t ∧ OnlyErrorRecorded s t ∧
      t.FAULT = some ⟨.addressRange, s.PC, some (0xF#4 ++ x ++ 0x65#8)⟩ ∧
      t.err = some (.addressRange (s.I.toNat + x.toNat) s.PC))

/-- A store over the next instruction is what the next step fetches. Rests on R72, R185. If LD [I], Vx with x >= 1 stores at I = p
+ 2 within memory, the next fetch reads the word V0, V1, big-endian. -/
def Obligations.StoredWordIsFetchedNext : Prop :=
  ∀ (x : Reg) (s : State), 1 ≤ x.toNat → s.PC.toNat + 4 ≤ 4096 → s.I.toNat = s.PC.toNat + 2 →
    s.I.toNat + x.toNat < 4096 →
    ∃ t w, exec (.ldStore x) s = .next t ∧ t.err = none ∧ fetch t = some w ∧
      w.toNat = 256 * (s.getV 0x0#4).toNat + (s.getV 0x1#4).toNat

/-- CLS clears every pixel and writes nothing else. Formalises R200. The word 00E0 decodes to CLS. For every state exec of it
answers Ok with PC = p + 2, every pixel 0 and every other element unchanged, VF too. -/
def Obligations.ClsClearsTheFramebuffer : Prop :=
  decode 0x00E0#16 = some .cls ∧
  ∀ s : State, ∃ t, exec .cls s = .next t ∧ t.err = none ∧ t.PC = s.PC + 2#16 ∧
    (∀ r c, t.fb.pixel r c = false) ∧ ({ fb := true } : Writes).Frame s t

/-- DRW toggles exactly the pixels the sprite covers and sets VF to the collision bit, or raises AddressRangeError. Rests on R201,
R240, R243. The word Dxyn decodes to DRW Vx, Vy, n. If n = 0 or I + n - 1 < 4096, exec of it answers Ok with PC = p + 2; a
pixel the sprite covers (bit 7 - j of byte k of mem[I..] at column (Vx + j) mod 64 and row (Vy + k) mod 32, with the old Vx
and Vy) is toggled, every other pixel kept; VF = 1 if some covered pixel was set, otherwise 0; everything else is unchanged.
Otherwise it changes only FAULT, to (AddressRangeError, p, word), and returns AddressRangeError(I + n - 1). The sprite's
geometry and the VF of n = 0 are the spec's own decisions D13 and D15 (log entry 5). The error is its decision D5, and that
FAULT records it is its decision D4 (log entry 5). -/
def Obligations.DrwXorsTheSprite : Prop :=
  ∀ (x y : Reg) (n : Nibble) (s : State), decode (0xD#4 ++ x ++ y ++ n) = some (.drw x y n) ∧
    let X := (s.getV x).toNat
    let Y := (s.getV y).toNat
    (n.toNat = 0 ∨ s.I.toNat + n.toNat - 1 < 4096 →
      ∃ t, exec (.drw x y n) s = .next t ∧ t.err = none ∧ t.PC = s.PC + 2#16 ∧
        (∀ r c, SpriteCovers s X Y n.toNat r c → t.fb.pixel r c = !s.fb.pixel r c) ∧
        (∀ r c, ¬ SpriteCovers s X Y n.toNat r c → t.fb.pixel r c = s.fb.pixel r c) ∧
        ((∃ r c, SpriteCovers s X Y n.toNat r c ∧ s.fb.pixel r c = true) → t.getV vF = 1#8) ∧
        ((¬ ∃ r c, SpriteCovers s X Y n.toNat r c ∧ s.fb.pixel r c = true) → t.getV vF = 0#8) ∧
        ({ regs := [vF], fb := true } : Writes).Frame s t) ∧
    (0 < n.toNat → s.I.toNat + n.toNat - 1 ≥ 4096 →
      ∃ t, exec (.drw x y n) s = .next t ∧ OnlyErrorRecorded s t ∧
        t.FAULT = some ⟨.addressRange, s.PC, some (0xD#4 ++ x ++ y ++ n)⟩ ∧
        t.err = some (.addressRange (s.I.toNat + n.toNat - 1) s.PC))

/-- Drawing the same sprite twice restores every pixel, and the second VF tells whether a covered pixel was unset. Rests on R201.
For x and y other than 0xF and a sprite within memory, two DRW in a row answer Ok, leave the framebuffer as it was before the
first, and the second leaves VF = 1 if the sprite covers a pixel that was unset before the first, otherwise 0. The sprite's
geometry is the spec's own decision D13 (log entry 5). With x or y = 0xF the second draw takes a coordinate from the VF the
first one left; DrwXorsTheSprite covers each of the two draws then. -/
def Obligations.DrawingTwiceRestoresThePixels : Prop :=
  ∀ (x y : Reg) (n : Nibble) (s : State), x ≠ vF → y ≠ vF → (n.toNat = 0 ∨ s.I.toNat + n.toNat - 1 < 4096) →
    ∃ t u, exec (.drw x y n) s = .next t ∧ exec (.drw x y n) t = .next u ∧ t.err = none ∧ u.err = none ∧
      u.fb = s.fb ∧
      ((∃ r c, SpriteCovers s (s.getV x).toNat (s.getV y).toNat n.toNat r c ∧ s.fb.pixel r c = false) →
        u.getV vF = 1#8) ∧
      ((¬ ∃ r c, SpriteCovers s (s.getV x).toNat (s.getV y).toNat n.toNat r c ∧ s.fb.pixel r c = false) →
        u.getV vF = 0#8)

/-- SKP and SKNP skip on the key Vx names; a key operand of 16 or more takes KeyRangeError. Rests on R220, R221, R222, R240, R243.
The words Ex9E and ExA1 decode to SKP Vx and SKNP Vx. With Vx < 16 both answer Ok, SKP leaving PC = p + 4 if key[Vx] is
pressed and p + 2 otherwise, SKNP the other way round, and every other element unchanged. With Vx >= 16 they change only
FAULT, to (KeyRangeError, p, word), and return KeyRangeError(Vx). The key range error is the spec's own decision D7, and that
FAULT records it is its decision D4 (log entry 5). -/
def Obligations.SkipsOnKey : Prop :=
  ∀ (x : Reg) (s : State),
    decode (0xE#4 ++ x ++ 0x9E#8) = some (.skp x) ∧ decode (0xE#4 ++ x ++ 0xA1#8) = some (.sknp x) ∧
    (∀ h : (s.getV x).toNat < 16,
      (∃ t, exec (.skp x) s = .next t ∧ t.err = none ∧
        t.PC = (if s.key[(s.getV x).toNat] = true then s.PC + 4#16 else s.PC + 2#16) ∧ ({} : Writes).Frame s t) ∧
      (∃ t, exec (.sknp x) s = .next t ∧ t.err = none ∧
        t.PC = (if s.key[(s.getV x).toNat] = false then s.PC + 4#16 else s.PC + 2#16) ∧ ({} : Writes).Frame s t)) ∧
    ((s.getV x).toNat ≥ 16 →
      (∃ t, exec (.skp x) s = .next t ∧ OnlyErrorRecorded s t ∧
        t.FAULT = some ⟨.keyRange, s.PC, some (0xE#4 ++ x ++ 0x9E#8)⟩ ∧ t.err = some (.keyRange (s.getV x) s.PC)) ∧
      (∃ t, exec (.sknp x) s = .next t ∧ OnlyErrorRecorded s t ∧
        t.FAULT = some ⟨.keyRange, s.PC, some (0xE#4 ++ x ++ 0xA1#8)⟩ ∧ t.err = some (.keyRange (s.getV x) s.PC)))

/-- LD Vx, DT reads the delay timer; LD DT, Vx and LD ST, Vx write the timers. Rests on R224, R226, R227. The words Fx07, Fx15 and
Fx18 decode to LD Vx, DT, LD DT, Vx and LD ST, Vx. Each answers Ok with PC = p + 2 and writes Vx = DT, DT = Vx, ST = Vx alone. -/
def Obligations.TimerRegisterMoves : Prop :=
  ∀ (x : Reg) (s : State),
    decode (0xF#4 ++ x ++ 0x07#8) = some (.ldVxDT x) ∧ decode (0xF#4 ++ x ++ 0x15#8) = some (.ldDT x) ∧
    decode (0xF#4 ++ x ++ 0x18#8) = some (.ldST x) ∧
    (∃ t, exec (.ldVxDT x) s = .next t ∧ t.err = none ∧ t.PC = s.PC + 2#16 ∧ t.getV x = s.DT ∧
      ({ regs := [x] } : Writes).Frame s t) ∧
    (∃ t, exec (.ldDT x) s = .next t ∧ t.err = none ∧ t.PC = s.PC + 2#16 ∧ t.DT = s.getV x ∧
      ({ DT := true } : Writes).Frame s t) ∧
    (∃ t, exec (.ldST x) s = .next t ∧ t.err = none ∧ t.PC = s.PC + 2#16 ∧ t.ST = s.getV x ∧
      ({ ST := true } : Writes).Frame s t)

/-- LD Vx, K takes the lowest pressed key, or stays at p with Ok when none is pressed. Formalises R225. The word Fx0A decodes to
LD Vx, K. If k is the lowest pressed key, exec of it answers Ok with Vx = k, PC = p + 2 and every other element unchanged. If
no key is pressed it answers Ok with PC = p and every element unchanged. -/
def Obligations.WaitForKeyPolls : Prop :=
  ∀ (x : Reg) (s : State), decode (0xF#4 ++ x ++ 0x0A#8) = some (.ldVxK x) ∧
    (∀ k : Fin 16, s.key[k.val] = true → (∀ j : Fin 16, j < k → s.key[j.val] = false) →
      ∃ t, exec (.ldVxK x) s = .next t ∧ t.err = none ∧ t.PC = s.PC + 2#16 ∧ (t.getV x).toNat = k.val ∧
        ({ regs := [x] } : Writes).Frame s t) ∧
    ((∀ k : Fin 16, s.key[k.val] = false) →
      ∃ t, exec (.ldVxK x) s = .next t ∧ t.err = none ∧ t.PC = s.PC ∧ ({} : Writes).Frame s t)

/-- tick_timers lowers each timer by 1 down to 0 and signals stop_tone exactly when ST was 1. Rests on R260. For every state,
FAULT set or not, tick_timers leaves DT and ST one lower, 0 staying 0, changes nothing else, and returns stop_tone = 1 iff ST
was 1. That ticks work while FAULT is set is the spec's own decision D19 (log entry 5). -/
def Obligations.TickCountsTheTimersDown : Prop :=
  ∀ s : State, ∃ t stop, HostOp.tickTimers.apply s = .next (t, .stopTone stop) ∧
    t.DT.toNat = s.DT.toNat - 1 ∧ t.ST.toNat = s.ST.toNat - 1 ∧ (stop = true ↔ s.ST.toNat = 1) ∧
    t = { s with DT := t.DT, ST := t.ST }

/-- After n ticks each timer is its value less n, or 0. Rests on R26, R27, R260. For every n and state, n calls of tick_timers in
a row leave DT and ST at their values minus n, or 0 if n is larger, and change nothing else. -/
def Obligations.TimersReachZeroAndStay : Prop :=
  ∀ (n : Nat) (s : State), ∃ t, runOps (List.replicate n .tickTimers) s = .next t ∧
    t.DT.toNat = s.DT.toNat - n ∧ t.ST.toNat = s.ST.toNat - n ∧ t = { s with DT := t.DT, ST := t.ST }

/-- set_key writes one keypad entry; an index of 16 or more is rejected and changes nothing. Rests on R265. For an index below 16,
FAULT set or not, set_key returns Ok with that entry at the given value, every other entry and element unchanged. For any
other index it returns KeyArgumentError(index) and the state is unchanged. Every step leaves the keypad unchanged, and so does
every operation but set_key and reset. That an index of 16 or more is rejected is the spec's own decision D8 (log entry 5). -/
def Obligations.SetKeyWritesOneKey : Prop :=
  (∀ (s : State) (index : Nat) (pressed : Bool),
    (index < 16 → ∃ t, (HostOp.setKey index pressed).apply s = .next (t, .ok) ∧
      t.key[index]? = some pressed ∧ (∀ j, j ≠ index → t.key[j]? = s.key[j]?) ∧ t = { s with key := t.key }) ∧
    (16 ≤ index → (HostOp.setKey index pressed).apply s = .next (s, .hostErr (.keyArgument index)))) ∧
  ∀ (op : HostOp) (s t : State) (r : HostReply), op.apply s = .next (t, r) → t.key ≠ s.key →
    op = .reset ∨ ∃ index pressed, op = .setKey index pressed

/-- load copies the bytes to 512.. and nothing else, or returns CapacityError with no change. Rests on R293, R294. For data of at
most 3584 bytes load returns Ok with byte k of the data at 512 + k, every other byte and every other element unchanged. For
longer data it returns CapacityError(length) and the state is unchanged. That load leaves everything else alone is the spec's
own decision D11 (log entry 5). -/
def Obligations.LoadCopiesOrRejectsWhole : Prop :=
  ∀ (s : State) (data : List Byte),
    (data.length ≤ 3584 → ∃ t, (HostOp.load data).apply s = .next (t, .ok) ∧
      (∀ k, k < data.length → some (t.mem.read (512 + k)) = data[k]?) ∧
      (∀ a, a < 512 ∨ 512 + data.length ≤ a → t.mem.read a = s.mem.read a) ∧ t = { s with mem := t.mem }) ∧
    (3584 < data.length → (HostOp.load data).apply s = .next (s, .hostErr (.capacity data.length)))

/-- reset gives, whatever the state was, the state of new, element for element. Formalises R291. For every state reset answers Ok
with a state that inspect shows as it shows a new one: every element of the block, FAULT included. -/
def Obligations.ResetGivesTheNewState : Prop :=
  ∀ s : State, ∃ t, HostOp.reset.apply s = .next (t, .ok) ∧ inspect t = inspect newVM

/-- The state after new or reset holds the values of the reset table. Rests on R34. In the reset state memory holds GLYPH_TABLE, a
table of 80 bytes, in [0,80) and 0 in [80,4096), V0..VF are 0, I = 0, PC = 512, SP = 0, the stack entries 0, DT = ST = 0,
every pixel 0, no key pressed, FAULT none; and the state that reset makes of any state shows the same. GLYPH_TABLE is a
parameter with a default (log entry 1), of which no byte is stated; FAULT none is the spec's own decision D4 (log entry 5). -/
def Obligations.ResetStateValues : Prop :=
  glyphTable.length = 80 ∧
  ∀ s : State, ∀ t ∈ [State.reset, newVM, resetVM s],
    (∀ a, a < 80 → some (t.mem.read a) = glyphTable[a]?) ∧ (∀ a, 80 ≤ a → a < 4096 → t.mem.read a = 0#8) ∧
    (∀ r, t.getV r = 0#8) ∧ t.I = 0#16 ∧ t.PC = 512#16 ∧ t.SP.val = 0 ∧
    (∀ j, j < 16 → t.stack[j]? = some 0#16) ∧ t.DT = 0#8 ∧ t.ST = 0#8 ∧ (∀ r c, t.fb.pixel r c = false) ∧
    (∀ k, k < 16 → t.key[k]? = some false) ∧ t.FAULT = none

/-- framebuffer, the timers read and inspect show the state and change nothing. Rests on R29, R263, R267, R268. framebuffer
returns 2048 bits with pixel (c, r) at index r x 64 + c; the timers read returns tone_on = 1 iff ST > 0, and DT and ST;
inspect returns a state with every element of the block; none changes the state. The timers read and inspect are the spec's
own additions, its decisions D20 and D21 (log entry 5); that inspect leaves out err and draws, the model's own fields, is the
model's choice (log entries 2 and 3). -/
def Obligations.ReadPortsShowTheState : Prop :=
  ∀ s : State,
    (∃ bits, HostOp.framebuffer.apply s = .next (s, .pixels bits) ∧ bits.length = 2048 ∧
      ∀ (r : Fin 32) (c : Fin 64), bits[r.val * 64 + c.val]? = some (s.fb.pixel r c)) ∧
    (∃ tone, HostOp.readTimers.apply s = .next (s, .timers tone s.DT s.ST) ∧ (tone = true ↔ s.ST.toNat > 0)) ∧
    (∃ w, HostOp.inspect.apply s = .next (s, .whole w) ∧ { w with err := s.err, draws := s.draws } = s)

/-- Through any run of host operations without a reset a set FAULT stays, and the program state with it. Rests on R28, R243. For
every list of host operations without reset and every state with FAULT = f, the run answers a state with FAULT still f and the
registers, I, PC, SP, stack and framebuffer unchanged; a step after it returns the record f; and every operation but a step
and reset leaves FAULT as it was. That FAULT sticks, and that the other operations work while it is set, are the spec's own
decisions D4 and D19 (log entry 5). That the step after it is a next state is the model's choice (log entry 2). -/
def Obligations.FatalErrorSticksUntilReset : Prop :=
  (∀ (ops : List HostOp) (s : State) (f : FaultRecord), s.FAULT = some f → HostOp.reset ∉ ops →
    ∃ t, runOps ops s = .next t ∧ t.FAULT = some f ∧ t.V = s.V ∧ t.I = s.I ∧ t.PC = s.PC ∧ t.SP = s.SP ∧
      t.stack = s.stack ∧ t.fb = s.fb ∧ ∀ rnd, stepWith rnd t = .next { t with err := some (.recorded f) }) ∧
  ∀ (op : HostOp) (s t : State) (r : HostReply), op.apply s = .next (t, r) → op ≠ .reset →
    (∀ rnd, op ≠ .step rnd) → t.FAULT = s.FAULT

/-- An instruction, a step and a host operation fail exactly when the error table says so, with that error; otherwise they return
Ok. Rests on R125, R126, R240, R242, R245. The error codes are 1 to 7 in the order of the table. Every instruction on every
state answers a next state that returned the error its row of the table names under the condition of that row, with its info,
and then changed nothing but FAULT; otherwise it returned Ok and FAULT is as it was. A step returns the recorded error, the
fetch error, the decode error or the instruction's own, in that order, or Ok. A host operation replies an error iff the table
says so, with its code: load CapacityError, code 1, iff 512 plus the length exceeds 4096; set_key KeyArgumentError, code 7,
iff the index is 16 or more; a step its own; the others none. Codes, infos and order are the spec's own decisions D16, D26 and
D28, the conditions of codes 5 to 7 its decisions D5, D7 and D8 (log entry 5); that an error is a next state is the model's
choice (log entry 2, DESIGN CHOICE). -/
def Obligations.OperationsFailExactlyAsTheErrorTableSays : Prop :=
  [ErrCode.capacity, .unimplementedOpcode, .stackOverflow, .stackUnderflow, .addressRange, .keyRange, .keyArgument].map
    ErrCode.number = [1, 2, 3, 4, 5, 6, 7] ∧
  (∀ (i : Instr) (s : State), ∃ t, exec i s = .next t ∧ t.err = ownCheck i s ∧
    (ownCheck i s = none → t.FAULT = s.FAULT) ∧ (ownCheck i s ≠ none → OnlyErrorRecorded s t)) ∧
  (∀ s : State, ∃ t, step s = .next t ∧ t.err = stepError s) ∧
  ∀ (op : HostOp) (s : State), ∃ t r, op.apply s = .next (t, r) ∧ r.code = op.errorCode s

/-- Which words can change VF, I, SP, the stack, the timers, the framebuffer and memory in a step; no step changes the keypad.
Rests on R21, R22, R24, R25, R26, R27, R29, R30, R68. For every step: if SP or the stack changed the word was 00EE or 2nnn; if
I changed it was Annn, Fx1E or Fx29; if DT changed Fx15; if ST changed Fx18; if the framebuffer changed 00E0 or Dxyn; if
memory changed Fx33 or Fx55; if VF changed it was 8xy4 to 8xy7, 8xyE, Dxyn, or a word with x = 0xF among 6xkk, 7xkk, 8xy0 to
8xy3, Cxkk, Fx07, Fx0A, Fx65; the keypad never changed. That Fx55 and Fx65 leave I as it is is the spec's own decision D14,
and that a failed step changes none of these is its decision D3 (log entry 5). -/
def Obligations.OnlyTheNamedWordsWriteEachElement : Prop :=
  ∀ (s t : State) (rnd : Byte), stepWith rnd s = .next t →
    (t.SP ≠ s.SP ∨ t.stack ≠ s.stack → ∃ w, fetch s = some w ∧ (w = 0x00EE#16 ∨ Word.n1 w = 0x2#4)) ∧
    (t.I ≠ s.I → ∃ w, fetch s = some w ∧
      (Word.n1 w = 0xA#4 ∨ (Word.n1 w = 0xF#4 ∧ Word.kk w ∈ [0x1E#8, 0x29#8]))) ∧
    (t.DT ≠ s.DT → ∃ w, fetch s = some w ∧ Word.n1 w = 0xF#4 ∧ Word.kk w = 0x15#8) ∧
    (t.ST ≠ s.ST → ∃ w, fetch s = some w ∧ Word.n1 w = 0xF#4 ∧ Word.kk w = 0x18#8) ∧
    (t.fb ≠ s.fb → ∃ w, fetch s = some w ∧ (w = 0x00E0#16 ∨ Word.n1 w = 0xD#4)) ∧
    (t.mem ≠ s.mem → ∃ w, fetch s = some w ∧ Word.n1 w = 0xF#4 ∧ Word.kk w ∈ [0x33#8, 0x55#8]) ∧
    (t.getV vF ≠ s.getV vF → ∃ w, fetch s = some w ∧
      ((Word.n1 w = 0x8#4 ∧ Word.n w ∈ [0x4#4, 0x5#4, 0x6#4, 0x7#4, 0xE#4]) ∨ Word.n1 w = 0xD#4 ∨
        (Word.x w = vF ∧ (Word.n1 w ∈ [0x6#4, 0x7#4, 0xC#4] ∨
          (Word.n1 w = 0x8#4 ∧ Word.n w ∈ [0x0#4, 0x1#4, 0x2#4, 0x3#4]) ∨
          (Word.n1 w = 0xF#4 ∧ Word.kk w ∈ [0x07#8, 0x0A#8, 0x65#8]))))) ∧
    t.key = s.key

/-- The reset state meets the invariant. Rests on R34, R290. In the reset state memory is in its canonical form, FAULT is
consistent, PC and the return addresses are in reach. The canonical form is the model's choice (log entry 6, DESIGN CHOICE);
FAULT is the spec's own decision D4 (log entry 5). -/
def Obligations.ResetMeetsTheInvariant : Prop :=
  Inv State.reset ∧ ∀ s, Inv (resetVM s)

/-- Every step keeps the invariant: canonical memory, consistent FAULT, PC at most 0x10FE, return addresses at most 4096. Rests on
R23, R60, R121, R125, R142, R243. For every state that meets the invariant and every random input, if the step answers a next
state then that state meets it: memory in its canonical form with addresses below 4096, FAULT a fatal record of the address PC
still has, PC at most 0x10FE, every return address in use at most 4096. The canonical form is the model's choice (log entry 6,
DESIGN CHOICE); the FAULT record of the address PC still has rests on the spec's own decisions D3 and D4 (log entry 5). -/
def Obligations.StepKeepsTheInvariant : Prop :=
  (∀ s t : State, Inv s → step s = .next t → Inv t) ∧
  ∀ (s t : State) (rnd : Byte), Inv s → stepWith rnd s = .next t → Inv t

/-- Every run of host operations, in any interleaving, keeps the invariant. Rests on R271, R301, R302. For every list of host
operations and every state that meets the invariant, the run answers a state that meets it. The canonical form is the model's
choice (log entry 6, DESIGN CHOICE); the FAULT record of the address PC still has rests on the spec's own decisions D3 and D4
(log entry 5). -/
def Obligations.HostRunsKeepTheInvariant : Prop :=
  ∀ (ops : List HostOp) (s : State), Inv s → ∃ t, runOps ops s = .next t ∧ Inv t

/-- Two memories in canonical form are the same data iff they read the same at every address. Rests on R60, R69. Canonical
memories are equal lists iff they read the same byte at every address below 4096. The list form is the model's choice (log
entry 6, DESIGN CHOICE). -/
def Obligations.CanonicalMemoriesAreEqualIffTheirBytesAre : Prop :=
  ∀ m m' : Memory, m.wf = true → m'.wf = true → (m = m' ↔ ∀ a, a < 4096 → m.read a = m'.read a)

/-- A parked state and a state waiting for a key are left unchanged by a step. Rests on R143, R225, R305. For every state that is
parked, or waiting at LD Vx, K with no key pressed, every step answers Ok and changes nothing but the model's record of the
returned result. What parked means is the spec's own decision D22 (log entry 5). The record of the returned result is the
model's own field err (log entry 2). -/
def Obligations.ParkedAndWaitingStatesStay : Prop :=
  ∀ (s : State) (rnd : Byte), Parked s ∨ Waiting s → stepWith rnd s = .next { s with err := none }
end

