-- ==== Sys2Proof/Laws/Decode.lean ====
section
/-! SUPPORT. The fields of assembled words and words reassembled from their fields (R91, R92), by way of their values as numbers:
what a proof about decode or encode needs instead of unfolding bit extraction. -/

namespace Sys2Proof

/-! ### The values of the fields and of assembled words -/

theorem Word.toNat_n1 (w : Word) : (Word.n1 w).toNat = w.toNat / 4096 := by
  have := w.isLt
  simp only [Word.n1, BitVec.extractLsb'_toNat, Nat.shiftRight_eq_div_pow]; omega
theorem Word.toNat_x (w : Word) : (Word.x w).toNat = w.toNat / 256 % 16 := by
  simp only [Word.x, BitVec.extractLsb'_toNat, Nat.shiftRight_eq_div_pow]
theorem Word.toNat_y (w : Word) : (Word.y w).toNat = w.toNat / 16 % 16 := by
  simp only [Word.y, BitVec.extractLsb'_toNat, Nat.shiftRight_eq_div_pow]
theorem Word.toNat_n (w : Word) : (Word.n w).toNat = w.toNat % 16 := by
  simp only [Word.n, BitVec.extractLsb'_toNat, Nat.shiftRight_eq_div_pow]; omega
theorem Word.toNat_kk (w : Word) : (Word.kk w).toNat = w.toNat % 256 := by
  simp only [Word.kk, BitVec.extractLsb'_toNat, Nat.shiftRight_eq_div_pow]; omega
theorem Word.toNat_nnn (w : Word) : (Word.nnn w).toNat = w.toNat % 4096 := by
  simp only [Word.nnn, BitVec.extractLsb'_toNat, Nat.shiftRight_eq_div_pow]; omega
theorem Word.toNat_hi (w : Word) : (Word.hi w).toNat = w.toNat / 256 := by
  have := w.isLt
  simp only [Word.hi, BitVec.extractLsb'_toNat, Nat.shiftRight_eq_div_pow]; omega
theorem Word.toNat_lo (w : Word) : (Word.lo w).toNat = w.toNat % 256 := by
  simp only [Word.lo, BitVec.extractLsb'_toNat, Nat.shiftRight_eq_div_pow]; omega

/-- The number of two fields put side by side. -/
theorem toNat_append_fields {m n : Nat} (a : BitVec m) (b : BitVec n) : (a ++ b).toNat = a.toNat * 2 ^ n + b.toNat := by
  rw [BitVec.toNat_append, ← Nat.shiftLeft_add_eq_or_of_lt b.isLt, Nat.shiftLeft_eq]

theorem toNat_encodeA (a : Nibble) (nnn : Addr) : (encodeA a nnn).toNat = a.toNat * 4096 + nnn.toNat :=
  toNat_append_fields a nnn
theorem toNat_encodeXK (a x : Nibble) (kk : Byte) : (encodeXK a x kk).toNat = (a.toNat * 16 + x.toNat) * 256 + kk.toNat := by
  rw [show a.toNat * 16 + x.toNat = (a ++ x).toNat from (toNat_append_fields a x).symm]
  exact toNat_append_fields (a ++ x) kk
theorem toNat_encodeXYN (a x y n : Nibble) :
    (encodeXYN a x y n).toNat = (a.toNat * 16 + x.toNat) * 256 + (y.toNat * 16 + n.toNat) := by
  rw [show a.toNat * 16 + x.toNat = (a ++ x).toNat from (toNat_append_fields a x).symm,
    show y.toNat * 16 + n.toNat = (y ++ n).toNat from (toNat_append_fields y n).symm]
  exact toNat_append_fields (a ++ x) (y ++ n)
/-- Big-endian on numbers: the first byte counts 256 (R66). -/
theorem Word.toNat_ofBytes (hi lo : Byte) : (Word.ofBytes hi lo).toNat = hi.toNat * 256 + lo.toNat :=
  toNat_append_fields hi lo

/-! ### Fields of assembled words -/

@[simp] theorem Word.n1_encodeA (a : Nibble) (nnn : Addr) : Word.n1 (encodeA a nnn) = a := by
  apply BitVec.eq_of_toNat_eq; rw [Word.toNat_n1, toNat_encodeA]; omega
@[simp] theorem Word.nnn_encodeA (a : Nibble) (nnn : Addr) : Word.nnn (encodeA a nnn) = nnn := by
  apply BitVec.eq_of_toNat_eq; rw [Word.toNat_nnn, toNat_encodeA]; omega

@[simp] theorem Word.n1_encodeXK (a x : Nibble) (kk : Byte) : Word.n1 (encodeXK a x kk) = a := by
  apply BitVec.eq_of_toNat_eq; rw [Word.toNat_n1, toNat_encodeXK]; omega
@[simp] theorem Word.x_encodeXK (a x : Nibble) (kk : Byte) : Word.x (encodeXK a x kk) = x := by
  apply BitVec.eq_of_toNat_eq; rw [Word.toNat_x, toNat_encodeXK]; omega
@[simp] theorem Word.kk_encodeXK (a x : Nibble) (kk : Byte) : Word.kk (encodeXK a x kk) = kk := by
  apply BitVec.eq_of_toNat_eq; rw [Word.toNat_kk, toNat_encodeXK]; omega

@[simp] theorem Word.n1_encodeXYN (a x y n : Nibble) : Word.n1 (encodeXYN a x y n) = a := by
  apply BitVec.eq_of_toNat_eq; rw [Word.toNat_n1, toNat_encodeXYN]; omega
@[simp] theorem Word.x_encodeXYN (a x y n : Nibble) : Word.x (encodeXYN a x y n) = x := by
  apply BitVec.eq_of_toNat_eq; rw [Word.toNat_x, toNat_encodeXYN]; omega
@[simp] theorem Word.y_encodeXYN (a x y n : Nibble) : Word.y (encodeXYN a x y n) = y := by
  apply BitVec.eq_of_toNat_eq; rw [Word.toNat_y, toNat_encodeXYN]; omega
@[simp] theorem Word.n_encodeXYN (a x y n : Nibble) : Word.n (encodeXYN a x y n) = n := by
  apply BitVec.eq_of_toNat_eq; rw [Word.toNat_n, toNat_encodeXYN]; omega

/-! ### Words from their fields -/

/-- A word is its major nibble and its address literal. -/
theorem encodeA_fields (w : Word) : encodeA (Word.n1 w) (Word.nnn w) = w := by
  apply BitVec.eq_of_toNat_eq; rw [toNat_encodeA, Word.toNat_n1, Word.toNat_nnn]; omega
/-- A word is its major nibble, its x field and its byte literal. -/
theorem encodeXK_fields (w : Word) : encodeXK (Word.n1 w) (Word.x w) (Word.kk w) = w := by
  apply BitVec.eq_of_toNat_eq; rw [toNat_encodeXK, Word.toNat_n1, Word.toNat_x, Word.toNat_kk]; omega
/-- A word is its four nibbles. -/
theorem encodeXYN_fields (w : Word) : encodeXYN (Word.n1 w) (Word.x w) (Word.y w) (Word.n w) = w := by
  apply BitVec.eq_of_toNat_eq; rw [toNat_encodeXYN, Word.toNat_n1, Word.toNat_x, Word.toNat_y, Word.toNat_n]; omega
/-- The two bytes of a word, assembled big-endian, are the word (R66). -/
@[simp] theorem Word.ofBytes_hi_lo (w : Word) : Word.ofBytes (Word.hi w) (Word.lo w) = w := by
  apply BitVec.eq_of_toNat_eq; rw [Word.toNat_ofBytes, Word.toNat_hi, Word.toNat_lo]; omega

/-! ### Masks of the opcode map (R93), nibble by nibble -/

theorem getLsbD_encodeXYN (a x y n : Nibble) (i : Nat) : (encodeXYN a x y n).getLsbD i =
    if i < 4 then n.getLsbD i else if i < 8 then y.getLsbD (i - 4)
    else if i < 12 then x.getLsbD (i - 8) else a.getLsbD (i - 12) := by
  have h : (encodeXYN a x y n).getLsbD i = ((a ++ x) ++ (y ++ n)).getLsbD i := rfl
  rw [h, BitVec.getLsbD_append, BitVec.getLsbD_append, BitVec.getLsbD_append]
  by_cases h1 : i < 4
  · simp [h1, show i < 8 by omega]
  · by_cases h2 : i < 8
    · simp [h1, h2]
    · by_cases h3 : i < 12
      · simp [h1, h2, h3, show i - 8 < 4 by omega]
      · simp [h1, h2, h3, show ¬ i - 8 < 4 by omega, show i - 8 - 4 = i - 12 by omega]

theorem and_encodeXYN (a x y n a' x' y' n' : Nibble) :
    encodeXYN a x y n &&& encodeXYN a' x' y' n' = encodeXYN (a &&& a') (x &&& x') (y &&& y') (n &&& n') := by
  apply BitVec.eq_of_getLsbD_eq; intro i hi
  rw [BitVec.getLsbD_and]; simp only [getLsbD_encodeXYN]
  split_ifs <;> simp [BitVec.getLsbD_and]

theorem encodeXYN_inj (a x y n a' x' y' n' : Nibble) :
    encodeXYN a x y n = encodeXYN a' x' y' n' ↔ a = a' ∧ x = x' ∧ y = y' ∧ n = n' := by
  constructor
  · intro h
    have ha := congrArg Word.n1 h
    have hx := congrArg Word.x h
    have hy := congrArg Word.y h
    have hn := congrArg Word.n h
    simp only [Word.n1_encodeXYN, Word.x_encodeXYN, Word.y_encodeXYN, Word.n_encodeXYN] at ha hx hy hn
    exact ⟨ha, hx, hy, hn⟩
  · rintro ⟨rfl, rfl, rfl, rfl⟩; rfl

/-- A word under a mask of whole nibbles equals a pattern iff each masked nibble does. -/
theorem and_nibbles_eq (w : Word) (ma mx my mn pa px py pn : Nibble) :
    w &&& encodeXYN ma mx my mn = encodeXYN pa px py pn ↔
      Word.n1 w &&& ma = pa ∧ Word.x w &&& mx = px ∧ Word.y w &&& my = py ∧ Word.n w &&& mn = pn := by
  conv_lhs => rw [← encodeXYN_fields w]
  rw [and_encodeXYN, encodeXYN_inj]

/-- A row with mask 0xF000 covers a word iff the major nibble agrees. -/
theorem and_F000_eq (w : Word) (pa : Nibble) :
    w &&& 0xF000#16 = encodeXYN pa 0#4 0#4 0#4 ↔ Word.n1 w = pa := by
  rw [show 0xF000#16 = encodeXYN 0xF#4 0#4 0#4 0#4 by decide, and_nibbles_eq]
  simp [show ∀ v : Nibble, v &&& 15#4 = v by decide]
/-- A row with mask 0xF00F covers a word iff the first and the last nibble agree. -/
theorem and_F00F_eq (w : Word) (pa pn : Nibble) :
    w &&& 0xF00F#16 = encodeXYN pa 0#4 0#4 pn ↔ Word.n1 w = pa ∧ Word.n w = pn := by
  rw [show 0xF00F#16 = encodeXYN 0xF#4 0#4 0#4 0xF#4 by decide, and_nibbles_eq]
  simp [show ∀ v : Nibble, v &&& 15#4 = v by decide]
/-- A row with mask 0xF0FF covers a word iff all nibbles but x agree. -/
theorem and_F0FF_eq (w : Word) (pa py pn : Nibble) :
    w &&& 0xF0FF#16 = encodeXYN pa 0#4 py pn ↔ Word.n1 w = pa ∧ Word.y w = py ∧ Word.n w = pn := by
  rw [show 0xF0FF#16 = encodeXYN 0xF#4 0#4 0xF#4 0xF#4 by decide, and_nibbles_eq]
  simp [show ∀ v : Nibble, v &&& 15#4 = v by decide]

/-- The two nibbles of the byte literal. -/
theorem Word.y_encodeXK (a x : Nibble) (kk : Byte) : Word.y (encodeXK a x kk) = kk.extractLsb' 4 4 := by
  apply BitVec.eq_of_toNat_eq
  rw [Word.toNat_y, toNat_encodeXK, BitVec.extractLsb'_toNat, Nat.shiftRight_eq_div_pow]; omega
theorem Word.n_encodeXK (a x : Nibble) (kk : Byte) : Word.n (encodeXK a x kk) = kk.extractLsb' 0 4 := by
  apply BitVec.eq_of_toNat_eq
  rw [Word.toNat_n, toNat_encodeXK, BitVec.extractLsb'_toNat, Nat.shiftRight_eq_div_pow]; omega

/-! ### The decoder, one major nibble at a time (R95) -/

/-- A nibble is one of sixteen. -/
theorem nibble_cases : ∀ v : Nibble, v = 0x0#4 ∨ v = 0x1#4 ∨ v = 0x2#4 ∨ v = 0x3#4 ∨ v = 0x4#4 ∨ v = 0x5#4 ∨ v = 0x6#4 ∨ v = 0x7#4 ∨ 
    v = 0x8#4 ∨ v = 0x9#4 ∨ v = 0xA#4 ∨ v = 0xB#4 ∨ v = 0xC#4 ∨ v = 0xD#4 ∨ v = 0xE#4 ∨ v = 0xF#4 := by decide

theorem decode_n1_0 (w : Word) (h : Word.n1 w = 0x0#4) : decode w = decodeGroup0 w := by simp [decode, h]
theorem decode_n1_1 (w : Word) (h : Word.n1 w = 0x1#4) : decode w = some (.jp (Word.nnn w)) := by simp [decode, h]
theorem decode_n1_2 (w : Word) (h : Word.n1 w = 0x2#4) : decode w = some (.call (Word.nnn w)) := by simp [decode, h]
theorem decode_n1_3 (w : Word) (h : Word.n1 w = 0x3#4) : decode w = some (.seByte (Word.x w) (Word.kk w)) := by simp [decode, h]
theorem decode_n1_4 (w : Word) (h : Word.n1 w = 0x4#4) : decode w = some (.sneByte (Word.x w) (Word.kk w)) := by simp [decode, h]
theorem decode_n1_5 (w : Word) (h : Word.n1 w = 0x5#4) : decode w = if Word.n w = 0x0#4 then some (.seReg (Word.x w) (Word.y w)) else none := by simp [decode, h]
theorem decode_n1_6 (w : Word) (h : Word.n1 w = 0x6#4) : decode w = some (.ldByte (Word.x w) (Word.kk w)) := by simp [decode, h]
theorem decode_n1_7 (w : Word) (h : Word.n1 w = 0x7#4) : decode w = some (.addByte (Word.x w) (Word.kk w)) := by simp [decode, h]
theorem decode_n1_8 (w : Word) (h : Word.n1 w = 0x8#4) : decode w = decodeGroup8 (Word.x w) (Word.y w) (Word.n w) := by simp [decode, h]
theorem decode_n1_9 (w : Word) (h : Word.n1 w = 0x9#4) : decode w = if Word.n w = 0x0#4 then some (.sneReg (Word.x w) (Word.y w)) else none := by simp [decode, h]
theorem decode_n1_A (w : Word) (h : Word.n1 w = 0xA#4) : decode w = some (.ldI (Word.nnn w)) := by simp [decode, h]
theorem decode_n1_B (w : Word) (h : Word.n1 w = 0xB#4) : decode w = some (.jpV0 (Word.nnn w)) := by simp [decode, h]
theorem decode_n1_C (w : Word) (h : Word.n1 w = 0xC#4) : decode w = some (.rnd (Word.x w) (Word.kk w)) := by simp [decode, h]
theorem decode_n1_D (w : Word) (h : Word.n1 w = 0xD#4) : decode w = some (.drw (Word.x w) (Word.y w) (Word.n w)) := by simp [decode, h]
theorem decode_n1_E (w : Word) (h : Word.n1 w = 0xE#4) : decode w = decodeGroupE (Word.x w) (Word.kk w) := by simp [decode, h]
theorem decode_n1_F (w : Word) (h : Word.n1 w = 0xF#4) : decode w = decodeGroupF (Word.x w) (Word.kk w) := by simp [decode, h]

/-! ### Decoding bytes -/

/-- Decoding two bytes is decoding the word they make, and leaves the bytes that follow. -/
theorem decodeBytes_cons (hi lo : Byte) (rest : List Byte) (i : Instr) (h : decode (Word.ofBytes hi lo) = some i) :
    decodeBytes (hi :: lo :: rest) = .ok (i, rest) := by
  simp [decodeBytes, h]

/-- The opcode table's numbering of a 16-bit row is the word itself. -/
theorem decodeTableWord_eq (nbits w : Nat) : decodeTableWord nbits w = decode (tableWord nbits w) := by
  simp only [decodeTableWord, decodeBytes, Word.ofBytes_hi_lo]
  cases decode (tableWord nbits w) <;> rfl

end Sys2Proof
end

