-- ==== Sys2Proof/Laws/Memory.lean ====
section
/-! SUPPORT. The laws of memory: a read after a write, and that every memory operation keeps the canonical form. The read laws hold
of every list, canonical or not. -/

namespace Sys2Proof.Machine

@[simp] theorem Memory.read_nil (a : Nat) : Memory.read [] a = Memory.unlisted a := rfl

theorem Memory.read_cons (c : Host.Cell) (m : Memory) (a : Nat) :
    Memory.read (c :: m) a = if a = c.1 then c.2 else m.read a := by
  unfold Memory.read
  rw [List.lookup_cons]
  by_cases h : a = c.1
  · simp [h]
  · simp [h, beq_eq_false_iff_ne.mpr h]

theorem Memory.read_filter_ne (m : Memory) (a b : Nat) :
    Memory.read (m.filter fun c => c.1 != a) b = if b = a then Memory.unlisted a else m.read b := by
  induction m with
  | nil => by_cases h : b = a <;> simp [h]
  | cons c m ih =>
    by_cases hc : c.1 = a
    · by_cases hb : b = a <;> simp_all [Memory.read_cons]
    · by_cases hb : b = c.1 <;> simp_all [Memory.read_cons]

theorem Memory.read_insertCell (c : Host.Cell) (m : Memory) (b : Nat) (fresh : ∀ d ∈ m, d.1 ≠ c.1) :
    (Memory.insertCell c m).read b = if b = c.1 then c.2 else m.read b := by
  induction m with
  | nil => simp [Memory.insertCell, Memory.read_cons]
  | cons d m ih =>
    have hd : d.1 ≠ c.1 := fresh d (by simp)
    have ih := ih fun e he => fresh e (by simp [he])
    simp only [Memory.insertCell]
    split
    · simp only [Memory.read_cons]
    · simp only [Memory.read_cons, ih]
      by_cases h1 : b = d.1 <;> by_cases h2 : b = c.1 <;> simp_all

/-- A read after a write of one byte (R65, R69). -/
theorem Memory.read_write (m : Memory) (a b : Nat) (v : Byte) :
    (m.write a v).read b = if b = a then v else m.read b := by
  simp only [Memory.write]
  split
  · next h => rw [Memory.read_filter_ne]; simp [h]
  · rw [Memory.read_insertCell _ _ _ (by simp), Memory.read_filter_ne]
    by_cases h : b = a <;> simp [h]

/-- A read after a write of several bytes: the written byte inside the range, the old one outside (R65). -/
theorem Memory.read_writeBytes (bs : List Byte) (m : Memory) (a b : Nat) :
    (m.writeBytes a bs).read b = if a ≤ b ∧ b < a + bs.length then bs.getD (b - a) 0#8 else m.read b := by
  induction bs generalizing m a with
  | nil => rw [if_neg (by simp only [List.length_nil]; omega)]; rfl
  | cons v bs ih =>
    rw [Memory.writeBytes, ih, Memory.read_write]
    by_cases h : b = a
    · subst h; simp
    · by_cases h' : a + 1 ≤ b ∧ b < a + 1 + bs.length
      · have : b - a = (b - (a + 1)) + 1 := by omega
        simp [h', this]
        omega
      · rw [if_neg h', if_neg h, if_neg (by simp only [List.length_cons]; omega)]

theorem Memory.read_writeBytes_outside (bs : List Byte) (m : Memory) (a b : Nat) (h : b < a ∨ a + bs.length ≤ b) :
    (m.writeBytes a bs).read b = m.read b := by
  rw [Memory.read_writeBytes, if_neg (by omega)]

@[simp] theorem Memory.length_readBytes (m : Memory) (a n : Nat) : (m.readBytes a n).length = n := by
  simp [Memory.readBytes]

theorem Memory.getElem_readBytes (m : Memory) (a n k : Nat) (h : k < (m.readBytes a n).length) :
    (m.readBytes a n)[k] = m.read (a + k) := by
  simp [Memory.readBytes]

/-! ### The canonical form -/

theorem Memory.wf_iff (m : Memory) :
    m.wf = true ↔ m.Pairwise (fun c d => c.1 < d.1) ∧ ∀ c ∈ m, c.1 < memSize ∧ c.2 ≠ Memory.unlisted c.1 := by
  simp [Memory.wf]

theorem Memory.mem_insertCell (c d : Host.Cell) (m : Memory) : d ∈ Memory.insertCell c m ↔ d = c ∨ d ∈ m := by
  induction m with
  | nil => simp [Memory.insertCell]
  | cons e m ih =>
    simp only [Memory.insertCell]
    split
    · simp
    · simp only [List.mem_cons, ih]; tauto

theorem Memory.pairwise_insertCell (c : Host.Cell) (m : Memory) (hm : m.Pairwise fun d e => d.1 < e.1)
    (fresh : ∀ d ∈ m, d.1 ≠ c.1) : (Memory.insertCell c m).Pairwise fun d e => d.1 < e.1 := by
  induction m with
  | nil => simp [Memory.insertCell]
  | cons d m ih =>
    have ⟨hd, hm'⟩ := List.pairwise_cons.mp hm
    have hne : d.1 ≠ c.1 := fresh d (by simp)
    simp only [Memory.insertCell]
    split
    · next h =>
      refine List.pairwise_cons.mpr ⟨fun e he => ?_, hm⟩
      rcases List.mem_cons.mp he with rfl | he
      · exact h
      · exact lt_trans h (hd e he)
    · refine List.pairwise_cons.mpr ⟨fun e he => ?_, ih hm' fun e he => fresh e (by simp [he])⟩
      rcases (Memory.mem_insertCell c e m).mp he with rfl | he
      · omega
      · exact hd e he

/-- A write to an address that exists keeps the canonical form. -/
theorem Memory.wf_write (m : Memory) (a : Nat) (v : Byte) (hm : m.wf = true) (ha : a < memSize) :
    (m.write a v).wf = true := by
  rw [Memory.wf_iff] at hm ⊢
  obtain ⟨hp, hall⟩ := hm
  have hpf := hp.filter (fun c => c.1 != a)
  simp only [Memory.write]
  split
  · exact ⟨hpf, fun c hc => hall c (List.mem_of_mem_filter hc)⟩
  · next hv =>
    refine ⟨Memory.pairwise_insertCell _ _ hpf (by simp), fun c hc => ?_⟩
    rcases (Memory.mem_insertCell _ _ _).mp hc with rfl | hc
    · exact ⟨ha, hv⟩
    · exact hall c (List.mem_of_mem_filter hc)

/-- A write of bytes to addresses that exist keeps the canonical form. -/
theorem Memory.wf_writeBytes (bs : List Byte) (m : Memory) (a : Nat) (hm : m.wf = true) (ha : a + bs.length ≤ memSize) :
    (m.writeBytes a bs).wf = true := by
  induction bs generalizing m a with
  | nil => exact hm
  | cons v bs ih =>
    simp only [List.length_cons] at ha
    exact ih _ _ (Memory.wf_write m a v hm (by omega)) (by omega)

/-- Reset memory lists nothing, so it is canonical. -/
theorem Memory.wf_reset : State.reset.mem.wf = true := by decide

end Sys2Proof.Machine
end

