-- ==== Sys2Proof/Laws/State.lean ====
section
/-! SUPPORT. What each named update of State leaves in each field, one lemma a field, and what the register accessors read after
each update. -/

namespace Sys2Proof.Machine

/-! ### State.setV -/

@[simp] theorem State.setV_mem (s : State) (x : Reg) (v : Byte) : (s.setV x v).mem = s.mem := rfl
@[simp] theorem State.setV_V (s : State) (x : Reg) (v : Byte) : (s.setV x v).V = s.V.set x.toNat v x.isLt := rfl
@[simp] theorem State.setV_I (s : State) (x : Reg) (v : Byte) : (s.setV x v).I = s.I := rfl
@[simp] theorem State.setV_PC (s : State) (x : Reg) (v : Byte) : (s.setV x v).PC = s.PC := rfl
@[simp] theorem State.setV_SP (s : State) (x : Reg) (v : Byte) : (s.setV x v).SP = s.SP := rfl
@[simp] theorem State.setV_stack (s : State) (x : Reg) (v : Byte) : (s.setV x v).stack = s.stack := rfl
@[simp] theorem State.setV_DT (s : State) (x : Reg) (v : Byte) : (s.setV x v).DT = s.DT := rfl
@[simp] theorem State.setV_ST (s : State) (x : Reg) (v : Byte) : (s.setV x v).ST = s.ST := rfl
@[simp] theorem State.setV_fb (s : State) (x : Reg) (v : Byte) : (s.setV x v).fb = s.fb := rfl
@[simp] theorem State.setV_key (s : State) (x : Reg) (v : Byte) : (s.setV x v).key = s.key := rfl
@[simp] theorem State.setV_FAULT (s : State) (x : Reg) (v : Byte) : (s.setV x v).FAULT = s.FAULT := rfl
@[simp] theorem State.setV_err (s : State) (x : Reg) (v : Byte) : (s.setV x v).err = s.err := rfl
@[simp] theorem State.setV_draws (s : State) (x : Reg) (v : Byte) : (s.setV x v).draws = s.draws := rfl

/-! ### State.setI -/

@[simp] theorem State.setI_mem (s : State) (v : Word) : (s.setI v).mem = s.mem := rfl
@[simp] theorem State.setI_V (s : State) (v : Word) : (s.setI v).V = s.V := rfl
@[simp] theorem State.setI_I (s : State) (v : Word) : (s.setI v).I = v := rfl
@[simp] theorem State.setI_PC (s : State) (v : Word) : (s.setI v).PC = s.PC := rfl
@[simp] theorem State.setI_SP (s : State) (v : Word) : (s.setI v).SP = s.SP := rfl
@[simp] theorem State.setI_stack (s : State) (v : Word) : (s.setI v).stack = s.stack := rfl
@[simp] theorem State.setI_DT (s : State) (v : Word) : (s.setI v).DT = s.DT := rfl
@[simp] theorem State.setI_ST (s : State) (v : Word) : (s.setI v).ST = s.ST := rfl
@[simp] theorem State.setI_fb (s : State) (v : Word) : (s.setI v).fb = s.fb := rfl
@[simp] theorem State.setI_key (s : State) (v : Word) : (s.setI v).key = s.key := rfl
@[simp] theorem State.setI_FAULT (s : State) (v : Word) : (s.setI v).FAULT = s.FAULT := rfl
@[simp] theorem State.setI_err (s : State) (v : Word) : (s.setI v).err = s.err := rfl
@[simp] theorem State.setI_draws (s : State) (v : Word) : (s.setI v).draws = s.draws := rfl

/-! ### State.setPC -/

@[simp] theorem State.setPC_mem (s : State) (v : Word) : (s.setPC v).mem = s.mem := rfl
@[simp] theorem State.setPC_V (s : State) (v : Word) : (s.setPC v).V = s.V := rfl
@[simp] theorem State.setPC_I (s : State) (v : Word) : (s.setPC v).I = s.I := rfl
@[simp] theorem State.setPC_PC (s : State) (v : Word) : (s.setPC v).PC = v := rfl
@[simp] theorem State.setPC_SP (s : State) (v : Word) : (s.setPC v).SP = s.SP := rfl
@[simp] theorem State.setPC_stack (s : State) (v : Word) : (s.setPC v).stack = s.stack := rfl
@[simp] theorem State.setPC_DT (s : State) (v : Word) : (s.setPC v).DT = s.DT := rfl
@[simp] theorem State.setPC_ST (s : State) (v : Word) : (s.setPC v).ST = s.ST := rfl
@[simp] theorem State.setPC_fb (s : State) (v : Word) : (s.setPC v).fb = s.fb := rfl
@[simp] theorem State.setPC_key (s : State) (v : Word) : (s.setPC v).key = s.key := rfl
@[simp] theorem State.setPC_FAULT (s : State) (v : Word) : (s.setPC v).FAULT = s.FAULT := rfl
@[simp] theorem State.setPC_err (s : State) (v : Word) : (s.setPC v).err = s.err := rfl
@[simp] theorem State.setPC_draws (s : State) (v : Word) : (s.setPC v).draws = s.draws := rfl

/-! ### State.setDT -/

@[simp] theorem State.setDT_mem (s : State) (v : Byte) : (s.setDT v).mem = s.mem := rfl
@[simp] theorem State.setDT_V (s : State) (v : Byte) : (s.setDT v).V = s.V := rfl
@[simp] theorem State.setDT_I (s : State) (v : Byte) : (s.setDT v).I = s.I := rfl
@[simp] theorem State.setDT_PC (s : State) (v : Byte) : (s.setDT v).PC = s.PC := rfl
@[simp] theorem State.setDT_SP (s : State) (v : Byte) : (s.setDT v).SP = s.SP := rfl
@[simp] theorem State.setDT_stack (s : State) (v : Byte) : (s.setDT v).stack = s.stack := rfl
@[simp] theorem State.setDT_DT (s : State) (v : Byte) : (s.setDT v).DT = v := rfl
@[simp] theorem State.setDT_ST (s : State) (v : Byte) : (s.setDT v).ST = s.ST := rfl
@[simp] theorem State.setDT_fb (s : State) (v : Byte) : (s.setDT v).fb = s.fb := rfl
@[simp] theorem State.setDT_key (s : State) (v : Byte) : (s.setDT v).key = s.key := rfl
@[simp] theorem State.setDT_FAULT (s : State) (v : Byte) : (s.setDT v).FAULT = s.FAULT := rfl
@[simp] theorem State.setDT_err (s : State) (v : Byte) : (s.setDT v).err = s.err := rfl
@[simp] theorem State.setDT_draws (s : State) (v : Byte) : (s.setDT v).draws = s.draws := rfl

/-! ### State.setST -/

@[simp] theorem State.setST_mem (s : State) (v : Byte) : (s.setST v).mem = s.mem := rfl
@[simp] theorem State.setST_V (s : State) (v : Byte) : (s.setST v).V = s.V := rfl
@[simp] theorem State.setST_I (s : State) (v : Byte) : (s.setST v).I = s.I := rfl
@[simp] theorem State.setST_PC (s : State) (v : Byte) : (s.setST v).PC = s.PC := rfl
@[simp] theorem State.setST_SP (s : State) (v : Byte) : (s.setST v).SP = s.SP := rfl
@[simp] theorem State.setST_stack (s : State) (v : Byte) : (s.setST v).stack = s.stack := rfl
@[simp] theorem State.setST_DT (s : State) (v : Byte) : (s.setST v).DT = s.DT := rfl
@[simp] theorem State.setST_ST (s : State) (v : Byte) : (s.setST v).ST = v := rfl
@[simp] theorem State.setST_fb (s : State) (v : Byte) : (s.setST v).fb = s.fb := rfl
@[simp] theorem State.setST_key (s : State) (v : Byte) : (s.setST v).key = s.key := rfl
@[simp] theorem State.setST_FAULT (s : State) (v : Byte) : (s.setST v).FAULT = s.FAULT := rfl
@[simp] theorem State.setST_err (s : State) (v : Byte) : (s.setST v).err = s.err := rfl
@[simp] theorem State.setST_draws (s : State) (v : Byte) : (s.setST v).draws = s.draws := rfl

/-! ### State.setFb -/

@[simp] theorem State.setFb_mem (s : State) (g : Grid) : (s.setFb g).mem = s.mem := rfl
@[simp] theorem State.setFb_V (s : State) (g : Grid) : (s.setFb g).V = s.V := rfl
@[simp] theorem State.setFb_I (s : State) (g : Grid) : (s.setFb g).I = s.I := rfl
@[simp] theorem State.setFb_PC (s : State) (g : Grid) : (s.setFb g).PC = s.PC := rfl
@[simp] theorem State.setFb_SP (s : State) (g : Grid) : (s.setFb g).SP = s.SP := rfl
@[simp] theorem State.setFb_stack (s : State) (g : Grid) : (s.setFb g).stack = s.stack := rfl
@[simp] theorem State.setFb_DT (s : State) (g : Grid) : (s.setFb g).DT = s.DT := rfl
@[simp] theorem State.setFb_ST (s : State) (g : Grid) : (s.setFb g).ST = s.ST := rfl
@[simp] theorem State.setFb_fb (s : State) (g : Grid) : (s.setFb g).fb = g := rfl
@[simp] theorem State.setFb_key (s : State) (g : Grid) : (s.setFb g).key = s.key := rfl
@[simp] theorem State.setFb_FAULT (s : State) (g : Grid) : (s.setFb g).FAULT = s.FAULT := rfl
@[simp] theorem State.setFb_err (s : State) (g : Grid) : (s.setFb g).err = s.err := rfl
@[simp] theorem State.setFb_draws (s : State) (g : Grid) : (s.setFb g).draws = s.draws := rfl

/-! ### State.setMem -/

@[simp] theorem State.setMem_mem (s : State) (m : Memory) : (s.setMem m).mem = m := rfl
@[simp] theorem State.setMem_V (s : State) (m : Memory) : (s.setMem m).V = s.V := rfl
@[simp] theorem State.setMem_I (s : State) (m : Memory) : (s.setMem m).I = s.I := rfl
@[simp] theorem State.setMem_PC (s : State) (m : Memory) : (s.setMem m).PC = s.PC := rfl
@[simp] theorem State.setMem_SP (s : State) (m : Memory) : (s.setMem m).SP = s.SP := rfl
@[simp] theorem State.setMem_stack (s : State) (m : Memory) : (s.setMem m).stack = s.stack := rfl
@[simp] theorem State.setMem_DT (s : State) (m : Memory) : (s.setMem m).DT = s.DT := rfl
@[simp] theorem State.setMem_ST (s : State) (m : Memory) : (s.setMem m).ST = s.ST := rfl
@[simp] theorem State.setMem_fb (s : State) (m : Memory) : (s.setMem m).fb = s.fb := rfl
@[simp] theorem State.setMem_key (s : State) (m : Memory) : (s.setMem m).key = s.key := rfl
@[simp] theorem State.setMem_FAULT (s : State) (m : Memory) : (s.setMem m).FAULT = s.FAULT := rfl
@[simp] theorem State.setMem_err (s : State) (m : Memory) : (s.setMem m).err = s.err := rfl
@[simp] theorem State.setMem_draws (s : State) (m : Memory) : (s.setMem m).draws = s.draws := rfl

/-! ### State.setRegs -/

@[simp] theorem State.setRegs_mem (s : State) (v : Vector Byte 16) : (s.setRegs v).mem = s.mem := rfl
@[simp] theorem State.setRegs_V (s : State) (v : Vector Byte 16) : (s.setRegs v).V = v := rfl
@[simp] theorem State.setRegs_I (s : State) (v : Vector Byte 16) : (s.setRegs v).I = s.I := rfl
@[simp] theorem State.setRegs_PC (s : State) (v : Vector Byte 16) : (s.setRegs v).PC = s.PC := rfl
@[simp] theorem State.setRegs_SP (s : State) (v : Vector Byte 16) : (s.setRegs v).SP = s.SP := rfl
@[simp] theorem State.setRegs_stack (s : State) (v : Vector Byte 16) : (s.setRegs v).stack = s.stack := rfl
@[simp] theorem State.setRegs_DT (s : State) (v : Vector Byte 16) : (s.setRegs v).DT = s.DT := rfl
@[simp] theorem State.setRegs_ST (s : State) (v : Vector Byte 16) : (s.setRegs v).ST = s.ST := rfl
@[simp] theorem State.setRegs_fb (s : State) (v : Vector Byte 16) : (s.setRegs v).fb = s.fb := rfl
@[simp] theorem State.setRegs_key (s : State) (v : Vector Byte 16) : (s.setRegs v).key = s.key := rfl
@[simp] theorem State.setRegs_FAULT (s : State) (v : Vector Byte 16) : (s.setRegs v).FAULT = s.FAULT := rfl
@[simp] theorem State.setRegs_err (s : State) (v : Vector Byte 16) : (s.setRegs v).err = s.err := rfl
@[simp] theorem State.setRegs_draws (s : State) (v : Vector Byte 16) : (s.setRegs v).draws = s.draws := rfl

/-! ### State.countDraw -/

@[simp] theorem State.countDraw_mem (s : State) : (s.countDraw).mem = s.mem := rfl
@[simp] theorem State.countDraw_V (s : State) : (s.countDraw).V = s.V := rfl
@[simp] theorem State.countDraw_I (s : State) : (s.countDraw).I = s.I := rfl
@[simp] theorem State.countDraw_PC (s : State) : (s.countDraw).PC = s.PC := rfl
@[simp] theorem State.countDraw_SP (s : State) : (s.countDraw).SP = s.SP := rfl
@[simp] theorem State.countDraw_stack (s : State) : (s.countDraw).stack = s.stack := rfl
@[simp] theorem State.countDraw_DT (s : State) : (s.countDraw).DT = s.DT := rfl
@[simp] theorem State.countDraw_ST (s : State) : (s.countDraw).ST = s.ST := rfl
@[simp] theorem State.countDraw_fb (s : State) : (s.countDraw).fb = s.fb := rfl
@[simp] theorem State.countDraw_key (s : State) : (s.countDraw).key = s.key := rfl
@[simp] theorem State.countDraw_FAULT (s : State) : (s.countDraw).FAULT = s.FAULT := rfl
@[simp] theorem State.countDraw_err (s : State) : (s.countDraw).err = s.err := rfl
@[simp] theorem State.countDraw_draws (s : State) : (s.countDraw).draws = s.draws + 1 := rfl

/-! ### State.push -/

@[simp] theorem State.push_mem (s : State) (v : Word) : (s.push v).mem = s.mem := rfl
@[simp] theorem State.push_V (s : State) (v : Word) : (s.push v).V = s.V := rfl
@[simp] theorem State.push_I (s : State) (v : Word) : (s.push v).I = s.I := rfl
@[simp] theorem State.push_PC (s : State) (v : Word) : (s.push v).PC = s.PC := rfl
@[simp] theorem State.push_SP (s : State) (v : Word) : (s.push v).SP = ⟨min (s.SP.val + 1) 16, by omega⟩ := rfl
@[simp] theorem State.push_stack (s : State) (v : Word) : (s.push v).stack = s.stack.setIfInBounds s.SP.val v := rfl
@[simp] theorem State.push_DT (s : State) (v : Word) : (s.push v).DT = s.DT := rfl
@[simp] theorem State.push_ST (s : State) (v : Word) : (s.push v).ST = s.ST := rfl
@[simp] theorem State.push_fb (s : State) (v : Word) : (s.push v).fb = s.fb := rfl
@[simp] theorem State.push_key (s : State) (v : Word) : (s.push v).key = s.key := rfl
@[simp] theorem State.push_FAULT (s : State) (v : Word) : (s.push v).FAULT = s.FAULT := rfl
@[simp] theorem State.push_err (s : State) (v : Word) : (s.push v).err = s.err := rfl
@[simp] theorem State.push_draws (s : State) (v : Word) : (s.push v).draws = s.draws := rfl

/-! ### State.pop -/

@[simp] theorem State.pop_mem (s : State) : (s.pop).mem = s.mem := rfl
@[simp] theorem State.pop_V (s : State) : (s.pop).V = s.V := rfl
@[simp] theorem State.pop_I (s : State) : (s.pop).I = s.I := rfl
@[simp] theorem State.pop_PC (s : State) : (s.pop).PC = s.PC := rfl
@[simp] theorem State.pop_SP (s : State) : (s.pop).SP = ⟨s.SP.val - 1, by omega⟩ := rfl
@[simp] theorem State.pop_stack (s : State) : (s.pop).stack = s.stack := rfl
@[simp] theorem State.pop_DT (s : State) : (s.pop).DT = s.DT := rfl
@[simp] theorem State.pop_ST (s : State) : (s.pop).ST = s.ST := rfl
@[simp] theorem State.pop_fb (s : State) : (s.pop).fb = s.fb := rfl
@[simp] theorem State.pop_key (s : State) : (s.pop).key = s.key := rfl
@[simp] theorem State.pop_FAULT (s : State) : (s.pop).FAULT = s.FAULT := rfl
@[simp] theorem State.pop_err (s : State) : (s.pop).err = s.err := rfl
@[simp] theorem State.pop_draws (s : State) : (s.pop).draws = s.draws := rfl

/-! ### State.advance -/

@[simp] theorem State.advance_mem (s : State) : (s.advance).mem = s.mem := rfl
@[simp] theorem State.advance_V (s : State) : (s.advance).V = s.V := rfl
@[simp] theorem State.advance_I (s : State) : (s.advance).I = s.I := rfl
@[simp] theorem State.advance_PC (s : State) : (s.advance).PC = s.PC + 2#16 := rfl
@[simp] theorem State.advance_SP (s : State) : (s.advance).SP = s.SP := rfl
@[simp] theorem State.advance_stack (s : State) : (s.advance).stack = s.stack := rfl
@[simp] theorem State.advance_DT (s : State) : (s.advance).DT = s.DT := rfl
@[simp] theorem State.advance_ST (s : State) : (s.advance).ST = s.ST := rfl
@[simp] theorem State.advance_fb (s : State) : (s.advance).fb = s.fb := rfl
@[simp] theorem State.advance_key (s : State) : (s.advance).key = s.key := rfl
@[simp] theorem State.advance_FAULT (s : State) : (s.advance).FAULT = s.FAULT := rfl
@[simp] theorem State.advance_err (s : State) : (s.advance).err = none := rfl
@[simp] theorem State.advance_draws (s : State) : (s.advance).draws = s.draws := rfl

/-! ### State.skip -/

@[simp] theorem State.skip_mem (s : State) : (s.skip).mem = s.mem := rfl
@[simp] theorem State.skip_V (s : State) : (s.skip).V = s.V := rfl
@[simp] theorem State.skip_I (s : State) : (s.skip).I = s.I := rfl
@[simp] theorem State.skip_PC (s : State) : (s.skip).PC = s.PC + 2#16 := rfl
@[simp] theorem State.skip_SP (s : State) : (s.skip).SP = s.SP := rfl
@[simp] theorem State.skip_stack (s : State) : (s.skip).stack = s.stack := rfl
@[simp] theorem State.skip_DT (s : State) : (s.skip).DT = s.DT := rfl
@[simp] theorem State.skip_ST (s : State) : (s.skip).ST = s.ST := rfl
@[simp] theorem State.skip_fb (s : State) : (s.skip).fb = s.fb := rfl
@[simp] theorem State.skip_key (s : State) : (s.skip).key = s.key := rfl
@[simp] theorem State.skip_FAULT (s : State) : (s.skip).FAULT = s.FAULT := rfl
@[simp] theorem State.skip_err (s : State) : (s.skip).err = s.err := rfl
@[simp] theorem State.skip_draws (s : State) : (s.skip).draws = s.draws := rfl

/-! ### raise and returnRecorded: every field but FAULT and err is kept (R121) -/

@[simp] theorem raise_mem (s : State) (op : Option Word) (e : StepErr) : (raise s op e).mem = s.mem := rfl
@[simp] theorem raise_V (s : State) (op : Option Word) (e : StepErr) : (raise s op e).V = s.V := rfl
@[simp] theorem raise_I (s : State) (op : Option Word) (e : StepErr) : (raise s op e).I = s.I := rfl
@[simp] theorem raise_PC (s : State) (op : Option Word) (e : StepErr) : (raise s op e).PC = s.PC := rfl
@[simp] theorem raise_SP (s : State) (op : Option Word) (e : StepErr) : (raise s op e).SP = s.SP := rfl
@[simp] theorem raise_stack (s : State) (op : Option Word) (e : StepErr) : (raise s op e).stack = s.stack := rfl
@[simp] theorem raise_DT (s : State) (op : Option Word) (e : StepErr) : (raise s op e).DT = s.DT := rfl
@[simp] theorem raise_ST (s : State) (op : Option Word) (e : StepErr) : (raise s op e).ST = s.ST := rfl
@[simp] theorem raise_fb (s : State) (op : Option Word) (e : StepErr) : (raise s op e).fb = s.fb := rfl
@[simp] theorem raise_key (s : State) (op : Option Word) (e : StepErr) : (raise s op e).key = s.key := rfl
@[simp] theorem raise_FAULT (s : State) (op : Option Word) (e : StepErr) : (raise s op e).FAULT = if e.code.fatal then some ⟨e.code, s.PC, op⟩ else s.FAULT := rfl
@[simp] theorem raise_err (s : State) (op : Option Word) (e : StepErr) : (raise s op e).err = some e := rfl
@[simp] theorem raise_draws (s : State) (op : Option Word) (e : StepErr) : (raise s op e).draws = s.draws := rfl

@[simp] theorem returnRecorded_mem (s : State) (f : FaultRecord) : (returnRecorded s f).mem = s.mem := rfl
@[simp] theorem returnRecorded_V (s : State) (f : FaultRecord) : (returnRecorded s f).V = s.V := rfl
@[simp] theorem returnRecorded_I (s : State) (f : FaultRecord) : (returnRecorded s f).I = s.I := rfl
@[simp] theorem returnRecorded_PC (s : State) (f : FaultRecord) : (returnRecorded s f).PC = s.PC := rfl
@[simp] theorem returnRecorded_SP (s : State) (f : FaultRecord) : (returnRecorded s f).SP = s.SP := rfl
@[simp] theorem returnRecorded_stack (s : State) (f : FaultRecord) : (returnRecorded s f).stack = s.stack := rfl
@[simp] theorem returnRecorded_DT (s : State) (f : FaultRecord) : (returnRecorded s f).DT = s.DT := rfl
@[simp] theorem returnRecorded_ST (s : State) (f : FaultRecord) : (returnRecorded s f).ST = s.ST := rfl
@[simp] theorem returnRecorded_fb (s : State) (f : FaultRecord) : (returnRecorded s f).fb = s.fb := rfl
@[simp] theorem returnRecorded_key (s : State) (f : FaultRecord) : (returnRecorded s f).key = s.key := rfl
@[simp] theorem returnRecorded_FAULT (s : State) (f : FaultRecord) : (returnRecorded s f).FAULT = s.FAULT := rfl
@[simp] theorem returnRecorded_err (s : State) (f : FaultRecord) : (returnRecorded s f).err = some (.recorded f) := rfl
@[simp] theorem returnRecorded_draws (s : State) (f : FaultRecord) : (returnRecorded s f).draws = s.draws := rfl

/-! ### skipIf touches PC alone -/

@[simp] theorem State.skipIf_mem (s : State) (c : Bool) : (s.skipIf c).mem = s.mem := by cases c <;> rfl
@[simp] theorem State.skipIf_V (s : State) (c : Bool) : (s.skipIf c).V = s.V := by cases c <;> rfl
@[simp] theorem State.skipIf_I (s : State) (c : Bool) : (s.skipIf c).I = s.I := by cases c <;> rfl
@[simp] theorem State.skipIf_PC (s : State) (c : Bool) : (s.skipIf c).PC = if c then s.PC + 2#16 else s.PC := by cases c <;> rfl
@[simp] theorem State.skipIf_SP (s : State) (c : Bool) : (s.skipIf c).SP = s.SP := by cases c <;> rfl
@[simp] theorem State.skipIf_stack (s : State) (c : Bool) : (s.skipIf c).stack = s.stack := by cases c <;> rfl
@[simp] theorem State.skipIf_DT (s : State) (c : Bool) : (s.skipIf c).DT = s.DT := by cases c <;> rfl
@[simp] theorem State.skipIf_ST (s : State) (c : Bool) : (s.skipIf c).ST = s.ST := by cases c <;> rfl
@[simp] theorem State.skipIf_fb (s : State) (c : Bool) : (s.skipIf c).fb = s.fb := by cases c <;> rfl
@[simp] theorem State.skipIf_key (s : State) (c : Bool) : (s.skipIf c).key = s.key := by cases c <;> rfl
@[simp] theorem State.skipIf_FAULT (s : State) (c : Bool) : (s.skipIf c).FAULT = s.FAULT := by cases c <;> rfl
@[simp] theorem State.skipIf_err (s : State) (c : Bool) : (s.skipIf c).err = s.err := by cases c <;> rfl
@[simp] theorem State.skipIf_draws (s : State) (c : Bool) : (s.skipIf c).draws = s.draws := by cases c <;> rfl

/-! ### The register accessor -/

theorem State.getV_setV (s : State) (x y : Reg) (v : Byte) : (s.setV x v).getV y = if x = y then v else s.getV y := by
  unfold State.getV State.setV
  by_cases h : x = y
  · subst h; simp
  · have : x.toNat ≠ y.toNat := fun e => h (BitVec.eq_of_toNat_eq e)
    simp [h, this]

@[simp] theorem State.getV_setV_self (s : State) (x : Reg) (v : Byte) : (s.setV x v).getV x = v := by
  simp [State.getV_setV]

@[simp] theorem State.getV_setI (s : State) (v : Word) (r : Reg) : (s.setI v).getV r = s.getV r := rfl
@[simp] theorem State.getV_setPC (s : State) (v : Word) (r : Reg) : (s.setPC v).getV r = s.getV r := rfl
@[simp] theorem State.getV_setDT (s : State) (v : Byte) (r : Reg) : (s.setDT v).getV r = s.getV r := rfl
@[simp] theorem State.getV_setST (s : State) (v : Byte) (r : Reg) : (s.setST v).getV r = s.getV r := rfl
@[simp] theorem State.getV_setFb (s : State) (g : Grid) (r : Reg) : (s.setFb g).getV r = s.getV r := rfl
@[simp] theorem State.getV_setMem (s : State) (m : Memory) (r : Reg) : (s.setMem m).getV r = s.getV r := rfl
@[simp] theorem State.getV_countDraw (s : State) (r : Reg) : (s.countDraw).getV r = s.getV r := rfl
@[simp] theorem State.getV_push (s : State) (v : Word) (r : Reg) : (s.push v).getV r = s.getV r := rfl
@[simp] theorem State.getV_pop (s : State) (r : Reg) : (s.pop).getV r = s.getV r := rfl
@[simp] theorem State.getV_advance (s : State) (r : Reg) : (s.advance).getV r = s.getV r := rfl
@[simp] theorem State.getV_skip (s : State) (r : Reg) : (s.skip).getV r = s.getV r := rfl
@[simp] theorem State.getV_skipIf (s : State) (c : Bool) (r : Reg) : (s.skipIf c).getV r = s.getV r := by cases c <;> rfl
@[simp] theorem State.getV_raise (s : State) (op : Option Word) (e : StepErr) (r : Reg) : (raise s op e).getV r = s.getV r := rfl

/-- The loaded register file, register by register (R186). -/
theorem State.getV_loadedRegs (s : State) (x r : Reg) :
    (s.setRegs (s.loadedRegs x)).getV r = if r.toNat ≤ x.toNat then s.mem.read (s.I.toNat + r.toNat) else s.getV r := by
  simp [State.getV, State.loadedRegs, State.ea]

/-- Result first, flag second: the flag wins in VF (R151). -/
theorem State.getV_setResultThenFlag (s : State) (x r : Reg) (v : Byte) (f : Bool) :
    (s.setResultThenFlag x v f).getV r = if r = vF then flagByte f else if r = x then v else s.getV r := by
  simp only [State.setResultThenFlag, State.getV_setV, eq_comm (a := r)]

end Sys2Proof.Machine
end

