-- ==== Sys2Proof/Laws/Ops.lean ====
section
/-! SUPPORT. What each shared operation can do, said once: the front of a step, taking an error, placing a word, memory ranges. -/

namespace Sys2Proof.Machine

/-! ### Fetch and the front of a step -/

theorem fetch_eq_some (s : State) (h : s.PC.toNat + 2 ≤ 4096) :
    fetch s = some (Word.ofBytes (s.mem.read s.PC.toNat) (s.mem.read (s.PC.toNat + 1))) := if_pos h

theorem fetch_eq_none (s : State) : fetch s = none ↔ 4095 ≤ s.PC.toNat := by
  unfold fetch memSize; split <;> simp <;> omega

/-- The front of a step ends in one of four ways, in the order of R245. -/
theorem front_cases (s : State) :
    (∃ f, s.FAULT = some f ∧ front s = .taken (returnRecorded s f)) ∨
    (s.FAULT = none ∧ fetch s = none ∧ front s = .taken (raise s none (.addressRange s.PC.toNat s.PC))) ∨
    (∃ op, s.FAULT = none ∧ fetch s = some op ∧ decode op = none ∧
      front s = .taken (raise s (some op) (.unimplementedOpcode op s.PC))) ∨
    (∃ op i, s.FAULT = none ∧ fetch s = some op ∧ decode op = some i ∧ front s = .run i) := by
  unfold front
  cases hF : s.FAULT with
  | some f => exact .inl ⟨f, rfl, rfl⟩
  | none =>
    cases hf : fetch s with
    | none => exact .inr (.inl ⟨rfl, rfl, by simp⟩)
    | some op =>
      cases hd : decode op with
      | none => exact .inr (.inr (.inl ⟨op, rfl, rfl, hd, by simp [hd]⟩))
      | some i => exact .inr (.inr (.inr ⟨op, i, rfl, rfl, hd, by simp [hd]⟩))

/-- When the front runs an instruction, so does the step. -/
theorem step_of_run (s : State) (i : Instr) (h : front s = .run i) : step s = exec i s := by simp [step, h]
theorem stepWith_of_run (rnd : Byte) (s : State) (i : Instr) (h : front s = .run i) :
    stepWith rnd s = execWith rnd i s := by simp [stepWith, h]
theorem step_of_taken (s t : State) (h : front s = .taken t) : step s = .next t := by simp [step, h]
theorem stepWith_of_taken (rnd : Byte) (s t : State) (h : front s = .taken t) : stepWith rnd s = .next t := by
  simp [stepWith, h]

/-! ### Taking an error -/

/-- Every error leaves everything but FAULT and the returned error (R121). -/
theorem raise_only (s : State) (op : Option Word) (e : StepErr) : OnlyErrorRecorded s (raise s op e) := rfl

theorem raise_of_fatal (s : State) (op : Option Word) (e : StepErr) (h : e.code.fatal = true) :
    (raise s op e).FAULT = some ⟨e.code, s.PC, op⟩ := by simp [h]
theorem raise_of_recoverable (s : State) (op : Option Word) (e : StepErr) (h : e.code.fatal = false) :
    (raise s op e).FAULT = s.FAULT := by simp [h]

/-! ### Ranges and operands -/

@[simp] theorem outOfRange_iff (a : Nat) : outOfRange a = true ↔ 4096 ≤ a := by simp [outOfRange, memSize]
@[simp] theorem outOfRange_eq_false (a : Nat) : outOfRange a = false ↔ a < 4096 := by simp [outOfRange, memSize]

@[simp] theorem addrWord_toNat (nnn : Addr) : (addrWord nnn).toNat = nnn.toNat := by
  have := nnn.isLt
  simp only [addrWord, BitVec.toNat_setWidth]; omega
@[simp] theorem byteWord_toNat (v : Byte) : (byteWord v).toNat = v.toNat := by
  have := v.isLt
  simp only [byteWord, BitVec.toNat_setWidth]; omega
@[simp] theorem length_bcdDigits (v : Byte) : (bcdDigits v).length = 3 := rfl
@[simp] theorem length_regsUpTo (s : State) (x : Reg) : (s.regsUpTo x).length = x.toNat + 1 := by
  have := x.isLt
  simp only [State.regsUpTo, List.length_take, Vector.length_toList]; omega

theorem getD_regsUpTo (s : State) (x r : Reg) (h : r.toNat ≤ x.toNat) : (s.regsUpTo x).getD r.toNat 0#8 = s.getV r := by
  have hr := r.isLt
  have : r.toNat < (s.regsUpTo x).length := by rw [length_regsUpTo]; omega
  rw [List.getD_eq_getElem _ _ this]
  simp [State.regsUpTo, State.getV]

theorem keyAt_eq_none (s : State) (v : Byte) : s.keyAt v = none ↔ 16 ≤ v.toNat := by simp [State.keyAt]
theorem keyAt_eq_some (s : State) (v : Byte) (h : v.toNat < 16) : s.keyAt v = some s.key[v.toNat] := by
  simp [State.keyAt, h]

/-! ### Placing a word -/

/-- The placed word is the one the next step fetches, on a machine that is not faulted. -/
theorem fetch_placeWord (s : State) (w : Word) : fetch (placeWord s w) = some w ∧ (placeWord s w).FAULT = none := by
  refine ⟨?_, rfl⟩
  have hPC : (placeWord s w).PC.toNat + 2 ≤ 4096 := by
    simp only [placeWord]; split
    · next h => exact h
    · decide
  have hm : (placeWord s w).mem = s.mem.writeBytes (placeWord s w).PC.toNat [Word.hi w, Word.lo w] := rfl
  rw [fetch_eq_some _ hPC, hm, Memory.read_writeBytes, Memory.read_writeBytes]
  simp

end Sys2Proof.Machine
end

