-- ==== Sys2Proof/Laws/Display.lean ====
section
/-! SUPPORT. The framebuffer: a pixel after a pixel was written, and what clearing leaves. -/

namespace Sys2Proof.Machine

theorem Grid.pixel_setPixel (g : Grid) (r r' : Fin 32) (c c' : Fin 64) (v : Bool) :
    (g.setPixel r c v).pixel r' c' = if r' = r ∧ c' = c then v else g.pixel r' c' := by
  unfold Grid.pixel Grid.setPixel
  by_cases hr : r' = r
  · subst hr
    by_cases hc : c' = c
    · subst hc; simp
    · have : c.val ≠ c'.val := fun e => hc (Fin.ext e.symm)
      simp [hc, this]
  · have : r.val ≠ r'.val := fun e => hr (Fin.ext e.symm)
    simp [hr, this]

@[simp] theorem Grid.pixel_clear (r : Fin 32) (c : Fin 64) : Grid.clear.pixel r c = false := by
  simp [Grid.pixel, Grid.clear]

/-- Two framebuffers with the same pixels are the same. -/
theorem Grid.ext_pixel (g h : Grid) (H : ∀ r c, g.pixel r c = h.pixel r c) : g = h := by
  apply Vector.ext; intro r hr; apply Vector.ext; intro c hc
  exact H ⟨r, hr⟩ ⟨c, hc⟩

/-- Plotting toggles one pixel and notes a collision if it was set (R201). -/
theorem plot_pixel (d : Drawing) (r r' : Fin 32) (q q' : Fin 64) :
    (plot d r q).1.pixel r' q' = (if r' = r ∧ q' = q then !d.1.pixel r q else d.1.pixel r' q') :=
  Grid.pixel_setPixel _ _ _ _ _ _

theorem plot_collision (d : Drawing) (r : Fin 32) (q : Fin 64) : (plot d r q).2 = (d.2 || d.1.pixel r q) := rfl

end Sys2Proof.Machine
end

