-- ==== Sys2Proof/Laws/Exec.lean ====
section
/-! SUPPORT. What the instructions with a condition of their own answer, one equation for each side of the condition, and the form
every outcome of exec has. The other instructions' outcomes are their meanings' definitions. -/

namespace Sys2Proof.Machine

theorem exec_ret_of_pos (s : State) (h : 0 < s.SP.val) : exec .ret s = .next (s.advance.pop.setPC s.top) :=
  if_neg (Nat.pos_iff_ne_zero.mp h)
theorem exec_ret_of_empty (s : State) (h : s.SP.val = 0) :
    exec .ret s = .next (raise s (some (encode .ret)) (.stackUnderflow s.PC)) := if_pos h

theorem exec_call_of_room (nnn : Addr) (s : State) (h : s.SP.val < 16) :
    exec (.call nnn) s = .next ((s.advance.push s.advance.PC).setPC (addrWord nnn)) := if_neg (Nat.ne_of_lt h)
theorem exec_call_of_full (nnn : Addr) (s : State) (h : s.SP.val = 16) :
    exec (.call nnn) s = .next (raise s (some (encode (.call nnn))) (.stackOverflow s.PC)) := if_pos h

theorem exec_ldB_of_inside (x : Reg) (s : State) (h : s.I.toNat + 2 < 4096) :
    exec (.ldB x) s = .next (s.advance.setMem (s.mem.writeBytes s.I.toNat (bcdDigits (s.getV x)))) :=
  if_neg (by simp only [State.ea, outOfRange_iff]; omega)
theorem exec_ldB_of_outside (x : Reg) (s : State) (h : s.I.toNat + 2 ≥ 4096) :
    exec (.ldB x) s = .next (raise s (some (encode (.ldB x))) (.addressRange (s.I.toNat + 2) s.PC)) :=
  if_pos (by simp only [State.ea, outOfRange_iff]; omega)

theorem exec_ldStore_of_inside (x : Reg) (s : State) (h : s.I.toNat + x.toNat < 4096) :
    exec (.ldStore x) s = .next (s.advance.setMem (s.mem.writeBytes s.I.toNat (s.regsUpTo x))) :=
  if_neg (by simp only [State.ea, outOfRange_iff]; omega)
theorem exec_ldStore_of_outside (x : Reg) (s : State) (h : s.I.toNat + x.toNat ≥ 4096) :
    exec (.ldStore x) s = .next (raise s (some (encode (.ldStore x))) (.addressRange (s.I.toNat + x.toNat) s.PC)) :=
  if_pos (by simp only [State.ea, outOfRange_iff]; omega)

theorem exec_ldLoad_of_inside (x : Reg) (s : State) (h : s.I.toNat + x.toNat < 4096) :
    exec (.ldLoad x) s = .next (s.advance.setRegs (s.loadedRegs x)) := if_neg (by simp only [State.ea, outOfRange_iff]; omega)
theorem exec_ldLoad_of_outside (x : Reg) (s : State) (h : s.I.toNat + x.toNat ≥ 4096) :
    exec (.ldLoad x) s = .next (raise s (some (encode (.ldLoad x))) (.addressRange (s.I.toNat + x.toNat) s.PC)) :=
  if_pos (by simp only [State.ea, outOfRange_iff]; omega)

theorem exec_drw_of_inside (x y : Reg) (n : Nibble) (s : State) (h : n.toNat = 0 ∨ s.I.toNat + n.toNat - 1 < 4096) :
    exec (.drw x y n) s = .next (s.advance.drawSprite (s.getV x).toNat (s.getV y).toNat n.toNat) :=
  if_neg (by simp only [State.ea, Bool.and_eq_true, decide_eq_true_eq, outOfRange_iff]; omega)
theorem exec_drw_of_outside (x y : Reg) (n : Nibble) (s : State) (h0 : 0 < n.toNat) (h : s.I.toNat + n.toNat - 1 ≥ 4096) :
    exec (.drw x y n) s = .next (raise s (some (encode (.drw x y n))) (.addressRange (s.I.toNat + n.toNat - 1) s.PC)) := by
  have ha : s.ea (n.toNat - 1) = s.I.toNat + n.toNat - 1 := by unfold State.ea; omega
  show (if _ then _ else _) = _
  rw [if_pos (by simp only [ha, Bool.and_eq_true, decide_eq_true_eq, outOfRange_iff]; omega), ha]; rfl

theorem exec_skp_of_key (x : Reg) (s : State) (h : (s.getV x).toNat < 16) :
    exec (.skp x) s = .next (s.advance.skipIf s.key[(s.getV x).toNat]) := by
  simp [exec, execSkp, keyAt_eq_some s _ h]
theorem exec_skp_of_no_key (x : Reg) (s : State) (h : (s.getV x).toNat ≥ 16) :
    exec (.skp x) s = .next (raise s (some (encode (.skp x))) (.keyRange (s.getV x) s.PC)) := by
  simp [exec, execSkp, (keyAt_eq_none s _).mpr h, fail]
theorem exec_sknp_of_key (x : Reg) (s : State) (h : (s.getV x).toNat < 16) :
    exec (.sknp x) s = .next (s.advance.skipIf (!s.key[(s.getV x).toNat])) := by
  simp [exec, execSknp, keyAt_eq_some s _ h]
theorem exec_sknp_of_no_key (x : Reg) (s : State) (h : (s.getV x).toNat ≥ 16) :
    exec (.sknp x) s = .next (raise s (some (encode (.sknp x))) (.keyRange (s.getV x) s.PC)) := by
  simp [exec, execSknp, (keyAt_eq_none s _).mpr h, fail]

/-- The key a wait takes is the lowest pressed one (R225). -/
theorem lowestKey_eq_some (s : State) (k : Fin 16) (hk : s.key[k.val] = true) (low : ∀ j : Fin 16, j < k → s.key[j.val] = false) :
    s.lowestKey = some k := by
  unfold State.lowestKey
  rw [List.find?_eq_some_iff_getElem]
  refine ⟨hk, k.val, by simp, by simp, fun j hj => ?_⟩
  have := low ⟨j, by omega⟩ hj
  simpa using this
theorem lowestKey_eq_none (s : State) (h : ∀ k : Fin 16, s.key[k.val] = false) : s.lowestKey = none := by
  unfold State.lowestKey
  rw [List.find?_eq_none]
  intro k _; simp [h k]

theorem exec_ldVxK_of_pressed (x : Reg) (s : State) (k : Fin 16) (h : s.lowestKey = some k) :
    exec (.ldVxK x) s = .next (s.advance.setV x (BitVec.ofNat 8 k.val)) := by simp [exec, execLdVxK, h]
theorem exec_ldVxK_of_none (x : Reg) (s : State) (h : s.lowestKey = none) :
    exec (.ldVxK x) s = .next (s.advance.setPC (s.advance.PC - 2#16)) := by simp [exec, execLdVxK, h]

/-! ### The host operations that can be rejected, one equation for each side, and the codes they return -/

theorem load_of_fits (s : State) (data : List Byte) (h : 512 + data.length ≤ 4096) :
    load s data = .ok (s.setMem (s.mem.writeBytes 512 data)) := if_neg (Nat.not_lt.mpr h)
theorem load_of_too_long (s : State) (data : List Byte) (h : 4096 < 512 + data.length) :
    load s data = .error (.capacity data.length) := if_pos h
theorem setKey_of_lt (s : State) (index : Nat) (pressed : Bool) (h : index < 16) :
    setKey s index pressed = .ok { s with key := s.key.set index pressed h } := dif_pos h
theorem setKey_of_ge (s : State) (index : Nat) (pressed : Bool) (h : 16 ≤ index) :
    setKey s index pressed = .error (.keyArgument index) := dif_neg (Nat.not_lt.mpr h)

@[simp] theorem HostErr.code_capacity (n : Nat) : (HostErr.capacity n).code = .capacity := rfl
@[simp] theorem HostErr.code_keyArgument (k : Nat) : (HostErr.keyArgument k).code = .keyArgument := rfl
/-- A step's reply returns the code of the error it recorded. -/
@[simp] theorem code_stepReply (t : State) : (stepReply t).code = t.err.map StepErr.code := by
  unfold stepReply; cases t.err <;> rfl
/-- An operation that can be rejected returns the rejection's code, and none otherwise. -/
@[simp] theorem code_orUnchanged_error (s : State) (e : HostErr) : (orUnchanged s (.error e)).2.code = some e.code := rfl
@[simp] theorem code_orUnchanged_ok (s t : State) : (orUnchanged s (.ok t)).2.code = none := rfl

/-! ### What execute can do, said once -/

/-- The errors an instruction's own rule can raise (R240, R245). -/
def OwnError (s : State) (e : StepErr) : Prop :=
  e = .stackOverflow s.PC ∨ e = .stackUnderflow s.PC ∨
    (∃ a, 4096 ≤ a ∧ e = .addressRange a s.PC) ∨ (∃ v : Byte, 16 ≤ v.toNat ∧ e = .keyRange v s.PC)

/-- Either the instruction completed, with Ok, FAULT and the keypad as they were and memory canonical if it was; or its own rule
raised, and everything is as before but FAULT and the returned error. -/
theorem execWith_cases (rnd : Byte) (i : Instr) (s : State) : ∃ t, execWith rnd i s = .next t ∧
    ((t.err = none ∧ t.FAULT = s.FAULT ∧ t.key = s.key ∧ (s.mem.wf = true → t.mem.wf = true)) ∨
      ∃ e, t = raise s (some (encode i)) e ∧ OwnError s e) := by
  cases i with
  | ret =>
    by_cases h : s.SP.val = 0
    · exact ⟨_, exec_ret_of_empty s h, .inr ⟨_, rfl, .inr (.inl rfl)⟩⟩
    · exact ⟨_, exec_ret_of_pos s (by omega), .inl ⟨rfl, rfl, rfl, id⟩⟩
  | call nnn =>
    by_cases h : s.SP.val = 16
    · exact ⟨_, exec_call_of_full nnn s h, .inr ⟨_, rfl, .inl rfl⟩⟩
    · exact ⟨_, exec_call_of_room nnn s (by omega), .inl ⟨rfl, rfl, rfl, id⟩⟩
  | drw x y n =>
    by_cases h : n.toNat = 0 ∨ s.I.toNat + n.toNat - 1 < 4096
    · exact ⟨_, exec_drw_of_inside x y n s h, .inl ⟨rfl, rfl, rfl, id⟩⟩
    · exact ⟨_, exec_drw_of_outside x y n s (by omega) (by omega), .inr ⟨_, rfl, .inr (.inr (.inl ⟨_, by omega, rfl⟩))⟩⟩
  | ldB x =>
    by_cases h : s.I.toNat + 2 < 4096
    · exact ⟨_, exec_ldB_of_inside x s h, .inl ⟨rfl, rfl, rfl, fun hw =>
        Memory.wf_writeBytes _ _ _ hw (by simp only [length_bcdDigits, memSize]; omega)⟩⟩
    · exact ⟨_, exec_ldB_of_outside x s (by omega), .inr ⟨_, rfl, .inr (.inr (.inl ⟨_, by omega, rfl⟩))⟩⟩
  | ldStore x =>
    by_cases h : s.I.toNat + x.toNat < 4096
    · exact ⟨_, exec_ldStore_of_inside x s h, .inl ⟨rfl, rfl, rfl, fun hw =>
        Memory.wf_writeBytes _ _ _ hw (by simp only [length_regsUpTo, memSize]; omega)⟩⟩
    · exact ⟨_, exec_ldStore_of_outside x s (by omega), .inr ⟨_, rfl, .inr (.inr (.inl ⟨_, by omega, rfl⟩))⟩⟩
  | ldLoad x =>
    by_cases h : s.I.toNat + x.toNat < 4096
    · exact ⟨_, exec_ldLoad_of_inside x s h, .inl ⟨rfl, rfl, rfl, id⟩⟩
    · exact ⟨_, exec_ldLoad_of_outside x s (by omega), .inr ⟨_, rfl, .inr (.inr (.inl ⟨_, by omega, rfl⟩))⟩⟩
  | skp x =>
    by_cases h : (s.getV x).toNat < 16
    · exact ⟨_, exec_skp_of_key x s h, .inl (by simp)⟩
    · exact ⟨_, exec_skp_of_no_key x s (by omega), .inr ⟨_, rfl, .inr (.inr (.inr ⟨_, by omega, rfl⟩))⟩⟩
  | sknp x =>
    by_cases h : (s.getV x).toNat < 16
    · exact ⟨_, exec_sknp_of_key x s h, .inl (by simp)⟩
    · exact ⟨_, exec_sknp_of_no_key x s (by omega), .inr ⟨_, rfl, .inr (.inr (.inr ⟨_, by omega, rfl⟩))⟩⟩
  | ldVxK x =>
    cases h : s.lowestKey with
    | some k => exact ⟨_, exec_ldVxK_of_pressed x s k h, .inl ⟨rfl, rfl, rfl, id⟩⟩
    | none => exact ⟨_, exec_ldVxK_of_none x s h, .inl ⟨rfl, rfl, rfl, id⟩⟩
  | _ => exact ⟨_, rfl, .inl (by simp [State.setResultThenFlag, shrWith, shlWith, shiftWith, shiftVfOrder])⟩

end Sys2Proof.Machine
end

