-- ==== Sys2Proof/Laws/PerInstr.lean ====
section
/-! SUPPORT. The per-instruction family MatchesItsRow: the word of every instruction is covered by the row of the opcode map it is
listed under (R93), which is about an instruction as syntax. -/

namespace Sys2Proof.Laws.MatchesItsRow

/-- The encoded word of `i` matches row `i.row` of the opcode map under that row's mask (R93). -/
def Statement (i : Instr) : Prop := ∃ r, opcodeMap[i.row]? = some r ∧ r.covers (encode i) = true

theorem of_row (i : Instr) (r : OpRow) (hr : opcodeMap[i.row]? = some r) (hc : encode i &&& r.mask = r.pattern) :
    Statement i := ⟨r, hr, by simp [OpRow.covers, hc]⟩

theorem nop : Statement .nop :=
  of_row _ ⟨0x0000#16, 0xFFFF#16, "NOP"⟩ rfl (by decide)
theorem cls : Statement .cls :=
  of_row _ ⟨0x00E0#16, 0xFFFF#16, "CLS"⟩ rfl (by decide)
theorem ret : Statement .ret :=
  of_row _ ⟨0x00EE#16, 0xFFFF#16, "RET"⟩ rfl (by decide)
theorem jp (nnn : Addr) : Statement (.jp nnn) :=
  of_row _ ⟨0x1000#16, 0xF000#16, "JP_addr"⟩ rfl ((and_F000_eq _ 1#4).mpr (by simp [encode]))
theorem call (nnn : Addr) : Statement (.call nnn) :=
  of_row _ ⟨0x2000#16, 0xF000#16, "CALL_addr"⟩ rfl ((and_F000_eq _ 2#4).mpr (by simp [encode]))
theorem seByte (x : Reg) (kk : Byte) : Statement (.seByte x kk) :=
  of_row _ ⟨0x3000#16, 0xF000#16, "SE_Vx__byte"⟩ rfl ((and_F000_eq _ 3#4).mpr (by simp [encode]))
theorem sneByte (x : Reg) (kk : Byte) : Statement (.sneByte x kk) :=
  of_row _ ⟨0x4000#16, 0xF000#16, "SNE_Vx__byte"⟩ rfl ((and_F000_eq _ 4#4).mpr (by simp [encode]))
theorem seReg (x y : Reg) : Statement (.seReg x y) :=
  of_row _ ⟨0x5000#16, 0xF00F#16, "SE_Vx__Vy"⟩ rfl ((and_F00F_eq _ 5#4 0#4).mpr (by simp [encode]))
theorem ldByte (x : Reg) (kk : Byte) : Statement (.ldByte x kk) :=
  of_row _ ⟨0x6000#16, 0xF000#16, "LD_Vx__byte"⟩ rfl ((and_F000_eq _ 6#4).mpr (by simp [encode]))
theorem addByte (x : Reg) (kk : Byte) : Statement (.addByte x kk) :=
  of_row _ ⟨0x7000#16, 0xF000#16, "ADD_Vx__byte"⟩ rfl ((and_F000_eq _ 7#4).mpr (by simp [encode]))
theorem ldReg (x y : Reg) : Statement (.ldReg x y) :=
  of_row _ ⟨0x8000#16, 0xF00F#16, "LD_Vx__Vy"⟩ rfl ((and_F00F_eq _ 8#4 0#4).mpr (by simp [encode]))
theorem orReg (x y : Reg) : Statement (.orReg x y) :=
  of_row _ ⟨0x8001#16, 0xF00F#16, "OR_Vx__Vy"⟩ rfl ((and_F00F_eq _ 8#4 1#4).mpr (by simp [encode]))
theorem andReg (x y : Reg) : Statement (.andReg x y) :=
  of_row _ ⟨0x8002#16, 0xF00F#16, "AND_Vx__Vy"⟩ rfl ((and_F00F_eq _ 8#4 2#4).mpr (by simp [encode]))
theorem xorReg (x y : Reg) : Statement (.xorReg x y) :=
  of_row _ ⟨0x8003#16, 0xF00F#16, "XOR_Vx__Vy"⟩ rfl ((and_F00F_eq _ 8#4 3#4).mpr (by simp [encode]))
theorem addReg (x y : Reg) : Statement (.addReg x y) :=
  of_row _ ⟨0x8004#16, 0xF00F#16, "ADD_Vx__Vy"⟩ rfl ((and_F00F_eq _ 8#4 4#4).mpr (by simp [encode]))
theorem sub (x y : Reg) : Statement (.sub x y) :=
  of_row _ ⟨0x8005#16, 0xF00F#16, "SUB_Vx__Vy"⟩ rfl ((and_F00F_eq _ 8#4 5#4).mpr (by simp [encode]))
theorem shr (x y : Reg) : Statement (.shr x y) :=
  of_row _ ⟨0x8006#16, 0xF00F#16, "SHR_Vx____Vy"⟩ rfl ((and_F00F_eq _ 8#4 6#4).mpr (by simp [encode]))
theorem subn (x y : Reg) : Statement (.subn x y) :=
  of_row _ ⟨0x8007#16, 0xF00F#16, "SUBN_Vx__Vy"⟩ rfl ((and_F00F_eq _ 8#4 7#4).mpr (by simp [encode]))
theorem shl (x y : Reg) : Statement (.shl x y) :=
  of_row _ ⟨0x800E#16, 0xF00F#16, "SHL_Vx____Vy"⟩ rfl ((and_F00F_eq _ 8#4 14#4).mpr (by simp [encode]))
theorem sneReg (x y : Reg) : Statement (.sneReg x y) :=
  of_row _ ⟨0x9000#16, 0xF00F#16, "SNE_Vx__Vy"⟩ rfl ((and_F00F_eq _ 9#4 0#4).mpr (by simp [encode]))
theorem ldI (nnn : Addr) : Statement (.ldI nnn) :=
  of_row _ ⟨0xA000#16, 0xF000#16, "LD_I__addr"⟩ rfl ((and_F000_eq _ 10#4).mpr (by simp [encode]))
theorem jpV0 (nnn : Addr) : Statement (.jpV0 nnn) :=
  of_row _ ⟨0xB000#16, 0xF000#16, "JP_V0__addr"⟩ rfl ((and_F000_eq _ 11#4).mpr (by simp [encode]))
theorem rnd (x : Reg) (kk : Byte) : Statement (.rnd x kk) :=
  of_row _ ⟨0xC000#16, 0xF000#16, "RND_Vx__byte"⟩ rfl ((and_F000_eq _ 12#4).mpr (by simp [encode]))
theorem drw (x y : Reg) (n : Nibble) : Statement (.drw x y n) :=
  of_row _ ⟨0xD000#16, 0xF000#16, "DRW_Vx__Vy__nibble"⟩ rfl ((and_F000_eq _ 13#4).mpr (by simp [encode]))
theorem skp (x : Reg) : Statement (.skp x) :=
  of_row _ ⟨0xE09E#16, 0xF0FF#16, "SKP_Vx"⟩ rfl ((and_F0FF_eq _ 14#4 9#4 14#4).mpr (by simp [encode, Word.y_encodeXK, Word.n_encodeXK]))
theorem sknp (x : Reg) : Statement (.sknp x) :=
  of_row _ ⟨0xE0A1#16, 0xF0FF#16, "SKNP_Vx"⟩ rfl ((and_F0FF_eq _ 14#4 10#4 1#4).mpr (by simp [encode, Word.y_encodeXK, Word.n_encodeXK]))
theorem ldVxDT (x : Reg) : Statement (.ldVxDT x) :=
  of_row _ ⟨0xF007#16, 0xF0FF#16, "LD_Vx__DT"⟩ rfl ((and_F0FF_eq _ 15#4 0#4 7#4).mpr (by simp [encode, Word.y_encodeXK, Word.n_encodeXK]))
theorem ldVxK (x : Reg) : Statement (.ldVxK x) :=
  of_row _ ⟨0xF00A#16, 0xF0FF#16, "LD_Vx__K"⟩ rfl ((and_F0FF_eq _ 15#4 0#4 10#4).mpr (by simp [encode, Word.y_encodeXK, Word.n_encodeXK]))
theorem ldDT (x : Reg) : Statement (.ldDT x) :=
  of_row _ ⟨0xF015#16, 0xF0FF#16, "LD_DT__Vx"⟩ rfl ((and_F0FF_eq _ 15#4 1#4 5#4).mpr (by simp [encode, Word.y_encodeXK, Word.n_encodeXK]))
theorem ldST (x : Reg) : Statement (.ldST x) :=
  of_row _ ⟨0xF018#16, 0xF0FF#16, "LD_ST__Vx"⟩ rfl ((and_F0FF_eq _ 15#4 1#4 8#4).mpr (by simp [encode, Word.y_encodeXK, Word.n_encodeXK]))
theorem addI (x : Reg) : Statement (.addI x) :=
  of_row _ ⟨0xF01E#16, 0xF0FF#16, "ADD_I__Vx"⟩ rfl ((and_F0FF_eq _ 15#4 1#4 14#4).mpr (by simp [encode, Word.y_encodeXK, Word.n_encodeXK]))
theorem ldF (x : Reg) : Statement (.ldF x) :=
  of_row _ ⟨0xF029#16, 0xF0FF#16, "LD_F__Vx"⟩ rfl ((and_F0FF_eq _ 15#4 2#4 9#4).mpr (by simp [encode, Word.y_encodeXK, Word.n_encodeXK]))
theorem ldB (x : Reg) : Statement (.ldB x) :=
  of_row _ ⟨0xF033#16, 0xF0FF#16, "LD_B__Vx"⟩ rfl ((and_F0FF_eq _ 15#4 3#4 3#4).mpr (by simp [encode, Word.y_encodeXK, Word.n_encodeXK]))
theorem ldStore (x : Reg) : Statement (.ldStore x) :=
  of_row _ ⟨0xF055#16, 0xF0FF#16, "LD__I___Vx"⟩ rfl ((and_F0FF_eq _ 15#4 5#4 5#4).mpr (by simp [encode, Word.y_encodeXK, Word.n_encodeXK]))
theorem ldLoad (x : Reg) : Statement (.ldLoad x) :=
  of_row _ ⟨0xF065#16, 0xF0FF#16, "LD_Vx___I"⟩ rfl ((and_F0FF_eq _ 15#4 6#4 5#4).mpr (by simp [encode, Word.y_encodeXK, Word.n_encodeXK]))

end Sys2Proof.Laws.MatchesItsRow
end

