-- ==== Sys2Proof/Tests/Slice0.lean ====
section
/-! SUPPORT. The model's own tests. Expected values are the vectors of 95_test_vectors.md (named by their ids) or words written out bit
by bit from 30_encoding.md. After them, one witness for each hypothesis of each statement, at the boundary values of its clauses. -/

namespace Sys2Proof.Tests

open Sys2Proof Sys2Proof.Machine

/-! ## Words: legal and illegal (R93, R94) -/

/-- Each illegal group of R94 has a word the check refuses, next to a legal one (T5, T6, T7). -/
theorem test_wellformed_refuses_illegal :
    wordLegal 0x0123#16 = false ∧ wordLegal 0x00E1#16 = false ∧ wordLegal 0x5121#16 = false ∧
    wordLegal 0x8008#16 = false ∧ wordLegal 0x800F#16 = false ∧ wordLegal 0x9001#16 = false ∧
    wordLegal 0xE000#16 = false ∧ wordLegal 0xE09F#16 = false ∧ wordLegal 0xF0FF#16 = false ∧
    wordLegal 0xF166#16 = false := by decide
theorem test_wellformed_takes_their_neighbours :
    wordLegal 0x0000#16 = true ∧ wordLegal 0x00E0#16 = true ∧ wordLegal 0x5120#16 = true ∧ wordLegal 0x8007#16 = true ∧
    wordLegal 0x800E#16 = true ∧ wordLegal 0x9000#16 = true ∧ wordLegal 0xE09E#16 = true ∧ wordLegal 0xF065#16 = true := by
  decide
theorem test_decode_refuses_by_name :
    decodeBytes [0x51#8, 0x21#8] = .error (.unimplementedOpcode 0x5121#16) ∧ decodeBytes [0x00#8] = .error .truncated := by
  decide

/-! ## Every constructor decodes from a word written out from the formats of R92 -/

/-- A word from its four nibbles n1 n2 n3 n4 (R6). -/
def nibbles (n1 n2 n3 n4 : Nibble) : Word := n1 ++ n2 ++ n3 ++ n4

theorem test_decode_control_flow :
    decode (nibbles 0b0000#4 0b0000#4 0b0000#4 0b0000#4) = some .nop ∧
    decode (nibbles 0b0000#4 0b0000#4 0b1110#4 0b1110#4) = some .ret ∧
    decode (nibbles 0b0001#4 0b1010#4 0b1011#4 0b1100#4) = some (.jp 0xABC#12) ∧
    decode (nibbles 0b0010#4 0b0011#4 0b0000#4 0b0001#4) = some (.call 0x301#12) ∧
    decode (nibbles 0b0011#4 0b0001#4 0b1000#4 0b0101#4) = some (.seByte 0x1#4 0x85#8) ∧
    decode (nibbles 0b0100#4 0b0001#4 0b1000#4 0b0101#4) = some (.sneByte 0x1#4 0x85#8) ∧
    decode (nibbles 0b0101#4 0b0001#4 0b0010#4 0b0000#4) = some (.seReg 0x1#4 0x2#4) ∧
    decode (nibbles 0b1001#4 0b0001#4 0b0010#4 0b0000#4) = some (.sneReg 0x1#4 0x2#4) ∧
    decode (nibbles 0b1011#4 0b0010#4 0b0000#4 0b0001#4) = some (.jpV0 0x201#12) := by decide
theorem test_decode_alu :
    decode (nibbles 0b0110#4 0b1010#4 0b0111#4 0b1011#4) = some (.ldByte 0xA#4 0x7B#8) ∧
    decode (nibbles 0b0111#4 0b0001#4 0b1111#4 0b1110#4) = some (.addByte 0x1#4 0xFE#8) ∧
    decode (nibbles 0b1000#4 0b0011#4 0b1100#4 0b0000#4) = some (.ldReg 0x3#4 0xC#4) ∧
    decode (nibbles 0b1000#4 0b0011#4 0b1100#4 0b0001#4) = some (.orReg 0x3#4 0xC#4) ∧
    decode (nibbles 0b1000#4 0b0011#4 0b1100#4 0b0010#4) = some (.andReg 0x3#4 0xC#4) ∧
    decode (nibbles 0b1000#4 0b0011#4 0b1100#4 0b0011#4) = some (.xorReg 0x3#4 0xC#4) ∧
    decode (nibbles 0b1000#4 0b0011#4 0b1100#4 0b0100#4) = some (.addReg 0x3#4 0xC#4) ∧
    decode (nibbles 0b1000#4 0b0011#4 0b1100#4 0b0101#4) = some (.sub 0x3#4 0xC#4) ∧
    decode (nibbles 0b1000#4 0b0011#4 0b1100#4 0b0110#4) = some (.shr 0x3#4 0xC#4) ∧
    decode (nibbles 0b1000#4 0b0011#4 0b1100#4 0b0111#4) = some (.subn 0x3#4 0xC#4) ∧
    decode (nibbles 0b1000#4 0b0011#4 0b1100#4 0b1110#4) = some (.shl 0x3#4 0xC#4) ∧
    decode (nibbles 0b1100#4 0b0011#4 0b1111#4 0b0001#4) = some (.rnd 0x3#4 0xF1#8) := by decide
theorem test_decode_index_and_memory :
    decode (nibbles 0b1010#4 0b0001#4 0b0010#4 0b0011#4) = some (.ldI 0x123#12) ∧
    decode (nibbles 0b1111#4 0b0010#4 0b0001#4 0b1110#4) = some (.addI 0x2#4) ∧
    decode (nibbles 0b1111#4 0b0010#4 0b0010#4 0b1001#4) = some (.ldF 0x2#4) ∧
    decode (nibbles 0b1111#4 0b0010#4 0b0011#4 0b0011#4) = some (.ldB 0x2#4) ∧
    decode (nibbles 0b1111#4 0b0010#4 0b0101#4 0b0101#4) = some (.ldStore 0x2#4) ∧
    decode (nibbles 0b1111#4 0b0010#4 0b0110#4 0b0101#4) = some (.ldLoad 0x2#4) := by decide
theorem test_decode_display :
    decode (nibbles 0b0000#4 0b0000#4 0b1110#4 0b0000#4) = some .cls ∧
    decode (nibbles 0b1101#4 0b0001#4 0b0010#4 0b0101#4) = some (.drw 0x1#4 0x2#4 0x5#4) := by decide
theorem test_decode_keypad_and_timers :
    decode (nibbles 0b1110#4 0b0011#4 0b1001#4 0b1110#4) = some (.skp 0x3#4) ∧
    decode (nibbles 0b1110#4 0b0011#4 0b1010#4 0b0001#4) = some (.sknp 0x3#4) ∧
    decode (nibbles 0b1111#4 0b0011#4 0b0000#4 0b0111#4) = some (.ldVxDT 0x3#4) ∧
    decode (nibbles 0b1111#4 0b0011#4 0b0000#4 0b1010#4) = some (.ldVxK 0x3#4) ∧
    decode (nibbles 0b1111#4 0b0011#4 0b0001#4 0b0101#4) = some (.ldDT 0x3#4) ∧
    decode (nibbles 0b1111#4 0b0011#4 0b0001#4 0b1000#4) = some (.ldST 0x3#4) := by decide
/-- The bytes 80 14 are the word 8014, the high byte first (R66); the rest of the bytes is left over. -/
theorem test_decode_bytes_big_endian :
    decodeBytes [0x80#8, 0x14#8, 0x99#8] = .ok (.addReg 0x0#4 0x1#4, [0x99#8]) ∧
    decodeTableWord 16 0x8014 = some (.addReg 0x0#4 0x1#4) ∧ decodeTableWord 16 0x5121 = none := by decide

/-! ## One step -/

/-- The reset state with a word at 0x200. -/
def start (w : Word) : State := State.reset.withFetchWord 16 w.toNat

/-- What one step leaves, read by `f`; none unless it answers a next state. -/
def after {α : Type} (s : State) (f : State → α) : Option α :=
  match step s with
  | .next t => some (f t)
  | .fault _ => none
  | .refused _ => none

/-- The same with the random input given. -/
def afterWith {α : Type} (rnd : Byte) (s : State) (f : State → α) : Option α :=
  match stepWith rnd s with
  | .next t => some (f t)
  | .fault _ => none
  | .refused _ => none

/-- PC and the returned error. -/
def pcErr (t : State) : Word × Option StepErr := (t.PC, t.err)

/-- Vx, VF and PC. -/
def vxVF (x : Reg) (t : State) : Byte × Byte × Word := (t.getV x, t.getV vF, t.PC)

/-- FAULT and PC. -/
def faultPC (t : State) : Option FaultRecord × Word := (t.FAULT, t.PC)

/-! ### The step cycle (T vectors) -/

/-- T1, W8. -/
theorem test_nop : after State.reset pcErr = some (0x202#16, none) := by decide
/-- T2, both steps. -/
theorem test_fetch_last_word :
    after (State.reset.setPC 0xFFE#16) pcErr = some (0x1000#16, none) ∧
    after (State.reset.setPC 0x1000#16) faultPC = some (some ⟨.addressRange, 0x1000#16, none⟩, 0x1000#16) := by decide
/-- T3. -/
theorem test_fetch_one_byte : after (State.reset.setPC 0xFFF#16) (fun t => (faultPC t, t.err)) =
    some ((some ⟨.addressRange, 0xFFF#16, none⟩, 0xFFF#16), some (.addressRange 0xFFF 0xFFF#16)) := by decide
/-- T4: odd addresses are legal. -/
theorem test_fetch_odd :
    after { State.reset with PC := 0x201#16, mem := [(0x201, 0x60#8), (0x202, 0x42#8)] } (vxVF 0x0#4) =
      some (0x42#8, 0x00#8, 0x203#16) := by decide
/-- T5. -/
theorem test_illegal_word : after (start 0x5121#16) (fun t => (faultPC t, t.err)) =
    some ((some ⟨.unimplementedOpcode, 0x200#16, some 0x5121#16⟩, 0x200#16),
      some (.unimplementedOpcode 0x5121#16 0x200#16)) := by decide
/-- T8: a faulted machine, whatever the word. -/
theorem test_faulted_machine :
    after { State.reset with FAULT := some ⟨.unimplementedOpcode, 0x200#16, some 0x5121#16⟩ }
      (fun t => (faultPC t, t.err.map StepErr.code)) =
      some ((some ⟨.unimplementedOpcode, 0x200#16, some 0x5121#16⟩, 0x200#16), some .unimplementedOpcode) := by decide
/-- T9. -/
theorem test_reset_clears_fault :
    after (resetVM { State.reset with FAULT := some ⟨.unimplementedOpcode, 0x200#16, some 0x5121#16⟩ }) pcErr =
      some (0x202#16, none) := by decide

/-! ### Control flow (C vectors) -/

/-- C-1. -/
theorem test_jp : after (start 0x1ABC#16) pcErr = some (0x0ABC#16, none) := by decide
/-- C-4. -/
theorem test_call : after (start 0x2300#16) (fun t => (t.PC, t.SP.val, t.stack[0])) = some (0x300#16, 1, 0x202#16) := by
  decide
/-- C-5. -/
theorem test_call_overflow :
    after { start 0x2300#16 with SP := 16 } (fun t => (pcErr t, t.SP.val, t.FAULT)) =
      some ((0x200#16, some (.stackOverflow 0x200#16)), 16, none) := by decide
/-- C-7. -/
theorem test_ret :
    after (((start 0x00EE#16).push 0x202#16).push 0x3A4#16) (fun t => (t.PC, t.SP.val, t.stack[1])) =
      some (0x3A4#16, 1, 0x3A4#16) := by decide
/-- C-6. -/
theorem test_ret_underflow : after (start 0x00EE#16) (fun t => (pcErr t, t.SP.val, t.FAULT)) =
    some ((0x200#16, some (.stackUnderflow 0x200#16)), 0, none) := by decide
/-- C-8, C-9. -/
theorem test_se_byte : after ((start 0x3005#16).setV 0x0#4 5#8) pcErr = some (0x204#16, none) ∧
    after ((start 0x3006#16).setV 0x0#4 5#8) pcErr = some (0x202#16, none) := by decide
/-- C-11. -/
theorem test_sne_byte : after ((start 0x4005#16).setV 0x0#4 5#8) pcErr = some (0x202#16, none) ∧
    after ((start 0x4006#16).setV 0x0#4 5#8) pcErr = some (0x204#16, none) := by decide
/-- C-12, C-13. -/
theorem test_se_reg : after (((start 0x5120#16).setV 0x1#4 7#8).setV 0x2#4 7#8) pcErr = some (0x204#16, none) ∧
    after (((start 0x5120#16).setV 0x1#4 7#8).setV 0x2#4 8#8) pcErr = some (0x202#16, none) := by decide
/-- C-15, C-16. -/
theorem test_sne_reg : after (((start 0x9120#16).setV 0x1#4 7#8).setV 0x2#4 8#8) pcErr = some (0x204#16, none) ∧
    after (start 0x9330#16) pcErr = some (0x202#16, none) := by decide
/-- C-17, C-18. -/
theorem test_jp_v0 : after ((start 0xB200#16).setV 0x0#4 1#8) pcErr = some (0x201#16, none) ∧
    after ((start 0xBFFF#16).setV 0x0#4 0xFF#8) pcErr = some (0x10FE#16, none) := by decide

/-! ### Registers and arithmetic (A vectors) -/

/-- A-1. -/
theorem test_ld_byte : after (start 0x6A7B#16) (vxVF 0xA#4) = some (0x7B#8, 0#8, 0x202#16) := by decide
/-- A-3. -/
theorem test_add_byte_wraps_without_flag :
    after (((start 0x7001#16).setV 0x0#4 0xFF#8).setV vF 0x55#8) (vxVF 0x0#4) = some (0#8, 0x55#8, 0x202#16) := by decide
/-- A-5. -/
theorem test_ld_reg : after ((start 0x8010#16).setV 0x1#4 0x33#8) (vxVF 0x0#4) = some (0x33#8, 0#8, 0x202#16) := by decide
/-- A-6: VF is not cleared. -/
theorem test_or : after ((((start 0x8011#16).setV 0x0#4 0xF0#8).setV 0x1#4 0x0F#8).setV vF 0x55#8) (vxVF 0x0#4) =
    some (0xFF#8, 0x55#8, 0x202#16) := by decide
/-- A-7. -/
theorem test_and : after (((start 0x8012#16).setV 0x0#4 0xF0#8).setV 0x1#4 0x3C#8) (vxVF 0x0#4) =
    some (0x30#8, 0#8, 0x202#16) := by decide
/-- A-8. -/
theorem test_xor : after (((start 0x8013#16).setV 0x0#4 0xF0#8).setV 0x1#4 0x3C#8) (vxVF 0x0#4) =
    some (0xCC#8, 0#8, 0x202#16) := by decide
/-- A-10, W1a. -/
theorem test_add_carry : after (((start 0x8014#16).setV 0x0#4 0xFF#8).setV 0x1#4 1#8) (vxVF 0x0#4) =
    some (0#8, 1#8, 0x202#16) := by decide
/-- A-13: the flag wins. -/
theorem test_add_into_vf : after (((start 0x8F14#16).setV vF 0xF0#8).setV 0x1#4 0x20#8) (vxVF vF) =
    some (1#8, 1#8, 0x202#16) := by decide
/-- A-16, A-17. -/
theorem test_sub : after (((start 0x8015#16).setV 0x0#4 3#8).setV 0x1#4 5#8) (vxVF 0x0#4) =
      some (0xFE#8, 0#8, 0x202#16) ∧
    after (((start 0x8015#16).setV 0x0#4 7#8).setV 0x1#4 7#8) (vxVF 0x0#4) = some (0#8, 1#8, 0x202#16) := by decide
/-- A-18. -/
theorem test_sub_into_vf : after (((start 0x8F15#16).setV vF 0x10#8).setV 0x1#4 0x20#8) (vxVF vF) =
    some (0#8, 0#8, 0x202#16) := by decide
/-- A-19, A-20: VF is 1 on a borrow. -/
theorem test_subn : after (((start 0x8017#16).setV 0x0#4 3#8).setV 0x1#4 5#8) (vxVF 0x0#4) =
      some (2#8, 0#8, 0x202#16) ∧
    after (((start 0x8017#16).setV 0x0#4 5#8).setV 0x1#4 3#8) (vxVF 0x0#4) = some (0xFE#8, 1#8, 0x202#16) := by decide
/-- A-22. -/
theorem test_subn_into_vf : after (((start 0x8F17#16).setV vF 0x10#8).setV 0x1#4 0x20#8) (vxVF vF) =
    some (0#8, 0#8, 0x202#16) := by decide
/-- A-23, A-24: Vy is not read. -/
theorem test_shr : after ((start 0x8006#16).setV 0x0#4 5#8) (vxVF 0x0#4) = some (2#8, 1#8, 0x202#16) ∧
    after (((start 0x8016#16).setV 0x0#4 4#8).setV 0x1#4 0xFF#8) (fun t => (vxVF 0x0#4 t, t.getV 0x1#4)) =
      some ((2#8, 0#8, 0x202#16), 0xFF#8) := by decide
/-- A-25, both values of SHIFT_VF_ORDER. -/
theorem test_shr_vf : (shrWith .sequential vF (State.reset.setV vF 3#8)).getV vF = 0#8 ∧
    (shrWith .flagLast vF (State.reset.setV vF 3#8)).getV vF = 1#8 := by decide
/-- A-26, A-27. -/
theorem test_shl : after ((start 0x800E#16).setV 0x0#4 0x81#8) (vxVF 0x0#4) = some (2#8, 1#8, 0x202#16) ∧
    after ((start 0x800E#16).setV 0x0#4 0x40#8) (vxVF 0x0#4) = some (0x80#8, 0#8, 0x202#16) := by decide
/-- A-28, both values of SHIFT_VF_ORDER. -/
theorem test_shl_vf : (shlWith .sequential vF (State.reset.setV vF 0x80#8)).getV vF = 2#8 ∧
    (shlWith .flagLast vF (State.reset.setV vF 0x80#8)).getV vF = 1#8 := by decide
/-- A-30, A-32. -/
theorem test_rnd : afterWith 0xAB#8 (start 0xC00F#16) (vxVF 0x0#4) = some (0x0B#8, 0#8, 0x202#16) ∧
    afterWith 0x5C#8 (start 0xC3FF#16) (vxVF 0x3#4) = some (0x5C#8, 0#8, 0x202#16) := by decide

/-! ### Index register and memory (M vectors) -/

/-- M-1. -/
theorem test_ld_i : after (start 0xA123#16) State.I = some 0x123#16 := by decide
/-- M-3, M-4. -/
theorem test_add_i : after (((start 0xF21E#16).setV 0x2#4 1#8).setI 0xFFF#16) (fun t => (t.I, t.getV vF)) =
      some (0x1000#16, 0#8) ∧
    after (((start 0xF21E#16).setV 0x2#4 2#8).setI 0xFFFF#16) State.I = some 1#16 := by decide
/-- M-5, M-6. -/
theorem test_ld_f : after ((start 0xF029#16).setV 0x0#4 0x0A#8) State.I = some 50#16 ∧
    after ((start 0xF029#16).setV 0x0#4 0xFF#8) State.I = some 1275#16 := by decide
/-- M-10. -/
theorem test_bcd : after (((start 0xF033#16).setV 0x0#4 123#8).setI 0xFFD#16)
    (fun t => (t.mem.readBytes 0xFFC 4, t.I)) = some ([0#8, 1#8, 2#8, 3#8], 0xFFD#16) := by decide
/-- M-11. -/
theorem test_bcd_range : after (((start 0xF033#16).setV 0x0#4 1#8).setI 0xFFE#16)
    (fun t => (faultPC t, t.err, t.mem.read 0xFFE)) =
      some ((some ⟨.addressRange, 0x200#16, some 0xF033#16⟩, 0x200#16), some (.addressRange 0x1000 0x200#16), 0#8) := by
  decide
/-- M-13. -/
theorem test_block_store :
    after (((((start 0xF255#16).setV 0x0#4 1#8).setV 0x1#4 2#8).setV 0x2#4 3#8).setI 0x300#16)
      (fun t => (t.mem.readBytes 0x300 4, t.I)) = some ([1#8, 2#8, 3#8, 0#8], 0x300#16) := by decide
/-- M-15: nothing is stored. -/
theorem test_block_store_range : after (((start 0xF155#16).setV 0x0#4 0xAA#8).setI 0xFFF#16)
    (fun t => (t.mem.read 0xFFF, t.err)) = some (0#8, some (.addressRange 0x1000 0x200#16)) := by decide
/-- M-17. -/
theorem test_block_load :
    after { start 0xF265#16 with mem := (start 0xF265#16).mem.writeBytes 0x300 [1#8, 2#8, 3#8, 4#8], I := 0x300#16 }
      (fun t => (t.V.toList.take 4, t.I)) = some ([1#8, 2#8, 3#8, 0#8], 0x300#16) := by decide
/-- M-20. -/
theorem test_block_load_range : after ((start 0xFF65#16).setI 0xFF8#16) (fun t => t.err) =
    some (some (.addressRange 0x1007 0x200#16)) := by decide

/-! ### Display (D vectors) -/

/-- A state with one byte at 0x300, I = 0x300 and V0, V1. -/
def sprite (w : Word) (b v0 v1 : Byte) : State :=
  (((((start w).setMem ((start w).mem.write 0x300 b)).setI 0x300#16).setV 0x0#4 v0).setV 0x1#4 v1)

/-- D-1. -/
theorem test_cls : after (((start 0x00E0#16).setFb (Grid.clear.setPixel 5 5 true)).setV vF 0x77#8)
    (fun t => (t.fb.pixel 5 5, t.getV vF)) = some (false, 0x77#8) := by decide
/-- D-3: the row wraps. -/
theorem test_drw_wraps : after (sprite 0xD011#16 0xFF#8 60#8 0#8)
    (fun t => ([59, 60, 63, 0, 3, 4].map (fun c => t.fb.pixel 0 c), t.getV vF)) =
      some ([false, true, true, true, true, false], 0#8) := by decide
/-- D-8: the coordinate is the old VF. -/
theorem test_drw_at_vf : after ((sprite 0xDF01#16 0x80#8 0#8 0#8).setV vF 3#8) (fun t => (t.fb.pixel 0 3, t.getV vF)) =
    some (true, 0#8) := by decide
/-- D-9: a collision. -/
theorem test_drw_collision : after ((sprite 0xD011#16 0x80#8 5#8 5#8).setFb (Grid.clear.setPixel 5 5 true))
    (fun t => (t.fb.pixel 5 5, t.getV vF)) = some (false, 1#8) := by decide

/-! ### Keypad and timers (K vectors) -/

/-- The state with a key pressed. -/
def press (s : State) (k : Fin 16) : State := { s with key := s.key.set k.val true k.isLt }

/-- K-1, K-2. -/
theorem test_skp : after (press ((start 0xE09E#16).setV 0x0#4 3#8) 3) pcErr = some (0x204#16, none) ∧
    after ((start 0xE09E#16).setV 0x0#4 3#8) pcErr = some (0x202#16, none) := by decide
/-- K-5. -/
theorem test_skp_key_range : after ((start 0xE09E#16).setV 0x0#4 0x10#8) (fun t => (faultPC t, t.err)) =
    some ((some ⟨.keyRange, 0x200#16, some 0xE09E#16⟩, 0x200#16), some (.keyRange 0x10#8 0x200#16)) := by decide
/-- K-3, K-4. -/
theorem test_sknp : after ((start 0xE0A1#16).setV 0x0#4 3#8) pcErr = some (0x204#16, none) ∧
    after (press ((start 0xE0A1#16).setV 0x0#4 3#8) 3) pcErr = some (0x202#16, none) := by decide
/-- K-6. -/
theorem test_sknp_key_range : after ((start 0xE0A1#16).setV 0x0#4 0xFF#8) (fun t => t.err) =
    some (some (.keyRange 0xFF#8 0x200#16)) := by decide
/-- K-7. -/
theorem test_key_wait : after ((start 0xF00A#16).setV 0x0#4 9#8) (fun t => (pcErr t, t.getV 0x0#4)) =
    some ((0x200#16, none), 9#8) := by decide
/-- K-8: the lowest index. -/
theorem test_key_taken : after (press (press (start 0xF00A#16) 7) 3) (fun t => (pcErr t, t.getV 0x0#4)) =
    some ((0x202#16, none), 3#8) := by decide
/-- K-10. -/
theorem test_ld_vx_dt : after ((start 0xF307#16).setDT 0x2A#8) (vxVF 0x3#4) = some (0x2A#8, 0#8, 0x202#16) := by decide
/-- K-11. -/
theorem test_ld_dt : after ((start 0xF015#16).setV 0x0#4 1#8) State.DT = some 1#8 := by decide
/-- K-12. -/
theorem test_ld_st : after ((start 0xF118#16).setV 0x1#4 0x10#8) (fun t => (t.ST, toneOn t)) = some (0x10#8, true) := by
  decide
/-- K-14, K-15, K-16: DT, ST and stop_tone. -/
theorem test_tick :
    ((tickTimers ((State.reset.setDT 5#8).setST 1#8)).1.DT = 4#8 ∧ (tickTimers ((State.reset.setDT 5#8).setST 1#8)).1.ST = 0#8 ∧
      (tickTimers ((State.reset.setDT 5#8).setST 1#8)).2 = true) ∧
    tickTimers State.reset = (State.reset, false) ∧ (tickTimers (State.reset.setST 2#8)).2 = false := by decide
/-- K-18, K-19. -/
theorem test_set_key : setKey State.reset 16 true = .error (.keyArgument 16) ∧
    setKey State.reset 0xA true = .ok (press State.reset 0xA) := by decide

/-! ### Host operations (H vectors) -/

/-- H-1. -/
theorem test_load_nothing : load State.reset [] = .ok State.reset := by decide
/-- H-3: the rest is not cleared. -/
theorem test_load_keeps_the_rest :
    (load (State.reset.setMem (State.reset.mem.writeBytes 0x200 [0x11#8, 0x22#8, 0x33#8])) [0xAA#8, 0xBB#8]) =
      .ok (State.reset.setMem [(0x200, 0xAA#8), (0x201, 0xBB#8), (0x202, 0x33#8)]) := by decide
/-- H-4, W3b. -/
theorem test_load_too_long : load State.reset (List.replicate 3585 1#8) = .error (.capacity 3585) := by
  unfold load; rw [if_pos (by rw [List.length_replicate]; decide), List.length_replicate]

/-- Codes 1 and 7 of R240 are what load and set_key return (H-4, K-18), and code 5 what the step of M-20 does. -/
theorem test_host_error_codes : (HostErr.capacity 3585).code.number = 1 ∧
    (match (HostOp.setKey 16 true).apply State.reset with
      | .next (_, r) => r.code.map ErrCode.number
      | _ => none) = some 7 ∧
    (match (HostOp.step 0#8).apply ((start 0xFF65#16).setI 0xFF8#16) with
      | .next (_, r) => r.code.map ErrCode.number
      | _ => none) = some 5 := by decide

/-! ## Witnesses: states and operands that meet the hypotheses of each statement -/

/-- DecodedInstructionEncodesToItsWord, DecoderAcceptsExactlyTheOpcodeMap. -/
theorem witness_decoded_word : decode 0x8AB6#16 = some (.shr 0xA#4 0xB#4) := by decide

/-- IllegalWordsAreThoseOfTheTable, second clause. -/
theorem witness_illegal_word_fetched :
    (start 0x5121#16).FAULT = none ∧ fetch (start 0x5121#16) = some 0x5121#16 ∧ decode 0x5121#16 = none := by decide

/-- StepRunsTheDecodedInstruction, at the last address with two bytes. -/
theorem witness_step_runs : (State.reset.setPC 4094#16).FAULT = none ∧ (State.reset.setPC 4094#16).PC.toNat + 2 ≤ 4096 ∧
    decodeBytes ((State.reset.setPC 4094#16).mem.readBytes (State.reset.setPC 4094#16).PC.toNat 2) = .ok (.nop, []) := by
  decide

/-- StepIsStepWithTheNextDraw, second clause. -/
theorem witness_not_rnd : ∀ x kk, Instr.nop ≠ .rnd x kk := by intro x kk h; cases h

/-- FetchPastTheEndTakesAddressRange, at its least PC. -/
theorem witness_fetch_past_the_end :
    (State.reset.setPC 4095#16).FAULT = none ∧ 4095 ≤ (State.reset.setPC 4095#16).PC.toNat := by decide

/-- A machine whose FAULT is set (T8). -/
def faulted : State := { State.reset with FAULT := some ⟨.unimplementedOpcode, 0x200#16, some 0x5121#16⟩ }

/-- FaultedStepReturnsTheRecord, FatalErrorSticksUntilReset (first clause). -/
theorem witness_faulted : faulted.FAULT = some ⟨.unimplementedOpcode, 0x200#16, some 0x5121#16⟩ ∧
    HostOp.reset ∉ [HostOp.step 1#8, .tickTimers, .setKey 3 true, .load [1#8], .framebuffer, .readTimers, .inspect] := by
  decide

/-- FailedStepChangesOnlyFault: a fatal error on an unfaulted machine. -/
theorem witness_failed_fatal : ∃ t e, stepWith 0#8 (start 0x5121#16) = .next t ∧ t.err = some e ∧ e.code.fatal = true ∧
    (start 0x5121#16).FAULT = none := ⟨_, _, rfl, rfl, rfl, rfl⟩
/-- FailedStepChangesOnlyFault: an error on a faulted machine. -/
theorem witness_failed_recorded : ∃ t e, stepWith 0#8 faulted = .next t ∧ t.err = some e ∧ faulted.FAULT ≠ none :=
  ⟨_, _, rfl, rfl, by decide⟩
/-- FailedStepChangesOnlyFault: a step that returns Ok. -/
theorem witness_step_ok : ∃ t, stepWith 0#8 State.reset = .next t ∧ t.err = none := ⟨_, rfl, rfl⟩
/-- FailedStepChangesOnlyFault and RecoverableErrorRepeats: a recoverable error. -/
theorem witness_failed_recoverable : (start 0x00EE#16).FAULT = none ∧
    ∃ t e, stepWith 0#8 (start 0x00EE#16) = .next t ∧ t.err = some e ∧ e.code.fatal = false :=
  ⟨rfl, _, _, rfl, rfl, rfl⟩

/-- ErrorsFollowThePriority: the fetch-range clause and the decoded clause; the FAULT clause's is witness_failed_recorded and
the decode clause's is witness_illegal_word_fetched. -/
theorem witness_priority :
    (∃ t, stepWith 0#8 (State.reset.setPC 4095#16) = .next t ∧ (State.reset.setPC 4095#16).FAULT = none ∧
      4095 ≤ (State.reset.setPC 4095#16).PC.toNat) ∧
    ∃ t, stepWith 0#8 (start 0xE09E#16) = .next t ∧ fetch (start 0xE09E#16) = some 0xE09E#16 ∧
      decode 0xE09E#16 = some (.skp 0x0#4) := by
  exact ⟨⟨_, rfl, by decide⟩, _, rfl, by decide⟩

/-- OperationsFailExactlyAsTheErrorTableSays: an instruction whose own check raises, and one whose check does not. -/
theorem witness_own_check : ownCheck .ret State.reset = some (.stackUnderflow 0x200#16) ∧
    ownCheck (.call 0x300#12) State.reset = none := by decide

/-- PlacedWordIsTheNextInstruction, at the last PC that is kept and the first that is not. -/
theorem witness_placed_word : decodeTableWord 16 0x8014 = some (.addReg 0x0#4 0x1#4) ∧
    (State.reset.setPC 4094#16).PC.toNat + 2 ≤ 4096 ∧ ¬ (State.reset.setPC 4095#16).PC.toNat + 2 ≤ 4096 := by decide

/-- RetPopsTheStack, both clauses. -/
theorem witness_ret : 0 < (State.reset.push 5#16).SP.val ∧ State.reset.SP.val = 0 := by decide

/-- CallPushesTheReturnAddress, both clauses where they meet; RetAfterCallReturnsBehindTheCall. -/
theorem witness_call : (State.SP { State.reset with SP := 15 }).val < 16 ∧
    (State.SP { State.reset with SP := 16 }).val = 16 := by decide

/-- SkipsOnByteOperand, SkipsOnRegisterOperand: equal and unequal operands, and a last nibble other than 0. -/
theorem witness_skips : State.reset.getV 0x1#4 = 0#8 ∧ State.reset.getV 0x1#4 ≠ 1#8 ∧
    (State.reset.setV 0x1#4 1#8).getV 0x1#4 ≠ (State.reset.setV 0x1#4 1#8).getV 0x2#4 ∧ (0x1#4 : Nibble) ≠ 0x0#4 := by
  decide

/-- AddRegistersSetsCarry, SubSetsNoBorrow, SubnSetsBorrow, ShrUnderEitherOrder, ShlUnderEitherOrder: x other than 0xF; x = 0xF
under each value of SHIFT_VF_ORDER. -/
theorem witness_x_and_order : (0xE#4 : Reg) ≠ vF ∧ (0xF#4 : Reg) = vF ∧ ShiftVfOrder.sequential = .sequential ∧
    ShiftVfOrder.flagLast = .flagLast := by decide
/-- AddRegistersSetsCarry, SubSetsNoBorrow, SubnSetsBorrow: both sides of each flag, where they meet. -/
theorem witness_flag_boundaries : ¬ (0x80#8).toNat + (0x7F#8).toNat > 255 ∧ (0x80#8).toNat + (0x80#8).toNat > 255 ∧
    (7#8).toNat ≥ (7#8).toNat ∧ ¬ (6#8).toNat ≥ (7#8).toNat ∧ (6#8).toNat < (7#8).toNat := by decide

/-- BcdStoresThreeDigits, both clauses where they meet. -/
theorem witness_bcd : (State.reset.setI 0xFFD#16).I.toNat + 2 < 4096 ∧ (State.reset.setI 0xFFE#16).I.toNat + 2 ≥ 4096 := by
  decide

/-- BlockStoreWritesV0ToVx, BlockLoadReadsV0ToVx, both clauses where they meet, for x = 15; and a register among V0..Vx. -/
theorem witness_block : (State.reset.setI 0xFF0#16).I.toNat + (0xF#4 : Reg).toNat < 4096 ∧
    (State.reset.setI 0xFF1#16).I.toNat + (0xF#4 : Reg).toNat ≥ 4096 ∧ (0xF#4 : Reg).toNat ≤ (0xF#4 : Reg).toNat := by decide

/-- StoredWordIsFetchedNext, with the stored word at the end of memory. -/
theorem witness_stored_word :
    1 ≤ (0x1#4 : Reg).toNat ∧ ((State.reset.setPC 4092#16).setI 4094#16).PC.toNat + 4 ≤ 4096 ∧
    ((State.reset.setPC 4092#16).setI 4094#16).I.toNat = ((State.reset.setPC 4092#16).setI 4094#16).PC.toNat + 2 ∧
    ((State.reset.setPC 4092#16).setI 4094#16).I.toNat + (0x1#4 : Reg).toNat < 4096 := by decide

/-- DrwXorsTheSprite: n = 0 with I anywhere, and the range clauses where they meet. -/
theorem witness_drw_range : (0x0#4 : Nibble).toNat = 0 ∧ (State.reset.setI 0xFFF#16).I.toNat + (0x1#4 : Nibble).toNat - 1 < 4096 ∧
    0 < (0x2#4 : Nibble).toNat ∧ (State.reset.setI 0xFFF#16).I.toNat + (0x2#4 : Nibble).toNat - 1 ≥ 4096 := by decide
/-- DrwXorsTheSprite, DrawingTwiceRestoresThePixels: the sprite's bit lies on pixel (5, 5), which is unset in one framebuffer and
set in the other. -/
theorem witness_covered : (0x0#4 : Reg) ≠ vF ∧ (0x1#4 : Reg) ≠ vF ∧
    SpriteCovers (sprite 0xD011#16 0x80#8 5#8 5#8) 5 5 1 5 5 ∧ (sprite 0xD011#16 0x80#8 5#8 5#8).fb.pixel 5 5 = false ∧
    ((sprite 0xD011#16 0x80#8 5#8 5#8).setFb (Grid.clear.setPixel 5 5 true)).fb.pixel 5 5 = true :=
  ⟨by decide, by decide, ⟨0, by decide, 0, by decide, by decide, by decide, by decide⟩, by decide, by decide⟩
/-- DrwXorsTheSprite, DrawingTwiceRestoresThePixels: with no sprite byte, no pixel is covered. -/
theorem witness_not_covered (s : State) : ∀ r c, ¬ SpriteCovers s 5 5 0 r c := by
  intro r c h; obtain ⟨k, hk, _⟩ := h; omega

/-- SkipsOnKey, both clauses where they meet. -/
theorem witness_key_operand : ((State.reset.setV 0x0#4 15#8).getV 0x0#4).toNat < 16 ∧
    ((State.reset.setV 0x0#4 16#8).getV 0x0#4).toNat ≥ 16 := by decide

/-- WaitForKeyPolls: the highest key alone, and no key. -/
theorem witness_key_wait : (press State.reset 15).key[15] = true ∧
    (∀ j : Fin 16, j < 15 → (press State.reset 15).key[j.val] = false) ∧
    (∀ k : Fin 16, State.reset.key[k.val] = false) := by decide

/-- SetKeyWritesOneKey: the indices where the clauses meet, and an operation that changes the keypad. -/
theorem witness_set_key : 15 < 16 ∧ 16 ≤ 16 ∧
    ∃ t r, (HostOp.setKey 3 true).apply State.reset = .next (t, r) ∧ t.key ≠ State.reset.key :=
  ⟨by decide, by decide, _, _, rfl, by decide⟩

/-- LoadCopiesOrRejectsWhole, the lengths where the clauses meet. -/
theorem witness_load : (List.replicate 3584 1#8).length ≤ 3584 ∧ 3584 < (List.replicate 3585 1#8).length := by
  rw [List.length_replicate, List.length_replicate]; decide

/-- FatalErrorSticksUntilReset, second clause. -/
theorem witness_host_operation : (∃ t r, HostOp.tickTimers.apply faulted = .next (t, r)) ∧ HostOp.tickTimers ≠ .reset ∧
    ∀ rnd, HostOp.tickTimers ≠ .step rnd :=
  ⟨⟨_, _, rfl⟩, by decide, by intro rnd h; cases h⟩

/-- OnlyTheNamedWordsWriteEachElement: for each element a step that changes it. -/
theorem witness_changes :
    (∃ t, stepWith 0#8 (start 0x2300#16) = .next t ∧ t.SP ≠ (start 0x2300#16).SP) ∧
    (∃ t, stepWith 0#8 (start 0xA123#16) = .next t ∧ t.I ≠ (start 0xA123#16).I) ∧
    (∃ t, stepWith 0#8 ((start 0xF015#16).setV 0x0#4 1#8) = .next t ∧ t.DT ≠ ((start 0xF015#16).setV 0x0#4 1#8).DT) ∧
    (∃ t, stepWith 0#8 ((start 0xF018#16).setV 0x0#4 1#8) = .next t ∧ t.ST ≠ ((start 0xF018#16).setV 0x0#4 1#8).ST) ∧
    (∃ t, stepWith 0#8 (start 0x6F33#16) = .next t ∧ t.getV vF ≠ (start 0x6F33#16).getV vF) :=
  ⟨⟨_, rfl, by decide⟩, ⟨_, rfl, by decide⟩, ⟨_, rfl, by decide⟩, ⟨_, rfl, by decide⟩, ⟨_, rfl, by decide⟩⟩
theorem witness_changes_memory_and_pixels :
    (∃ t, stepWith 0#8 (((start 0xF055#16).setV 0x0#4 9#8).setI 0x300#16) = .next t ∧
      t.mem ≠ (((start 0xF055#16).setV 0x0#4 9#8).setI 0x300#16).mem) ∧
    (∃ t, stepWith 0#8 (sprite 0xD011#16 0x80#8 5#8 5#8) = .next t ∧ t.fb ≠ (sprite 0xD011#16 0x80#8 5#8 5#8).fb) :=
  ⟨⟨_, rfl, by decide⟩, ⟨_, rfl, by decide⟩⟩

/-- StepKeepsTheInvariant, HostRunsKeepTheInvariant: the reset state. -/
theorem witness_inv : Inv State.reset where
  mem := rfl
  fault := by intro f h; cases h
  pc := ⟨by decide, by decide⟩
/-- StepKeepsTheInvariant: a step from it answers a next state. -/
theorem witness_inv_step : ∃ t, step State.reset = .next t := ⟨_, rfl⟩

/-- CanonicalMemoriesAreEqualIffTheirBytesAre: two canonical memories. -/
theorem witness_canonical : Memory.wf [(0, 0x11#8), (512, 0x22#8)] = true ∧ Memory.wf [(0, 0x11#8)] = true := by decide

/-- ParkedAndWaitingStatesStay, both sides (C-2, K-7). -/
theorem witness_parked : Parked (start 0x1200#16) := ⟨rfl, 0x200#12, by decide, by decide⟩
theorem witness_waiting : Waiting (start 0xF00A#16) := ⟨rfl, ⟨0x0#4, by decide⟩, by decide⟩

end Sys2Proof.Tests
end

section
/-! PROOFS, family 10_state. What a legal word encodes; the front of a step and the step itself, inverted once. -/

namespace Sys2Proof

/-! ### A legal word is the encoding of what it decodes to (R91, R95) -/

theorem encode_of_decodeGroup0 (w : Word) (i : Instr) (h : decodeGroup0 w = some i) : encode i = w := by
  unfold decodeGroup0 at h
  split_ifs at h <;> cases h <;> exact Eq.symm ‹w = _›

theorem encode_of_decodeGroup8 (x y : Reg) (n : Nibble) (i : Instr) (h : decodeGroup8 x y n = some i) :
    encode i = encodeXYN 0x8#4 x y n := by
  unfold decodeGroup8 at h
  split_ifs at h <;> cases h <;> subst n <;> rfl

theorem encode_of_decodeGroupE (x : Reg) (kk : Byte) (i : Instr) (h : decodeGroupE x kk = some i) :
    encode i = encodeXK 0xE#4 x kk := by
  unfold decodeGroupE at h
  split_ifs at h <;> cases h <;> subst kk <;> rfl

theorem encode_of_decodeGroupF (x : Reg) (kk : Byte) (i : Instr) (h : decodeGroupF x kk = some i) :
    encode i = encodeXK 0xF#4 x kk := by
  unfold decodeGroupF at h
  split_ifs at h <;> cases h <;> subst kk <;> rfl

/-- No bit of a legal word is dropped by the decoder: encoding gives the word back. -/
theorem encode_of_decode (w : Word) (i : Instr) (h : decode w = some i) : encode i = w := by
  have hA := encodeA_fields w
  have hXK := encodeXK_fields w
  have hXYN := encodeXYN_fields w
  rcases nibble_cases (Word.n1 w) with hn | hn | hn | hn | hn | hn | hn | hn | hn | hn | hn | hn | hn | hn | hn | hn <;>
    rw [hn] at hA hXK hXYN
  · exact encode_of_decodeGroup0 w i (decode_n1_0 w hn ▸ h)
  · rw [decode_n1_1 w hn] at h; cases h; exact hA
  · rw [decode_n1_2 w hn] at h; cases h; exact hA
  · rw [decode_n1_3 w hn] at h; cases h; exact hXK
  · rw [decode_n1_4 w hn] at h; cases h; exact hXK
  · rw [decode_n1_5 w hn] at h; split_ifs at h with hl; cases h; rw [hl] at hXYN; exact hXYN
  · rw [decode_n1_6 w hn] at h; cases h; exact hXK
  · rw [decode_n1_7 w hn] at h; cases h; exact hXK
  · exact (encode_of_decodeGroup8 _ _ _ i (decode_n1_8 w hn ▸ h)).trans hXYN
  · rw [decode_n1_9 w hn] at h; split_ifs at h with hl; cases h; rw [hl] at hXYN; exact hXYN
  · rw [decode_n1_A w hn] at h; cases h; exact hA
  · rw [decode_n1_B w hn] at h; cases h; exact hA
  · rw [decode_n1_C w hn] at h; cases h; exact hXK
  · rw [decode_n1_D w hn] at h; cases h; exact hXYN
  · exact (encode_of_decodeGroupE _ _ i (decode_n1_E w hn ▸ h)).trans hXK
  · exact (encode_of_decodeGroupF _ _ i (decode_n1_F w hn ▸ h)).trans hXK

end Sys2Proof

namespace Sys2Proof.Machine

/-! ### The front of a step, one equation for a faulted machine and one for a decoded word -/

theorem front_of_fault (s : State) (f : FaultRecord) (h : s.FAULT = some f) : front s = .taken (returnRecorded s f) := by
  simp [front, h]

theorem front_of_decoded (s : State) (w : Word) (i : Instr) (hF : s.FAULT = none) (hw : fetch s = some w)
    (hd : decode w = some i) : front s = .run i := by
  simp [front, hF, hw, hd]

/-- `exec` is `execute` at the next free draw (R123). -/
theorem exec_eq_execWith (i : Instr) (s : State) : exec i s = execWith (Config.rnd s.draws) i s := by
  cases i <;> rfl

/-- The machine's step is the step with a given random input, at the next free draw (R123). -/
theorem step_eq_stepWith (s : State) : step s = stepWith (Config.rnd s.draws) s := by
  cases hf : front s with
  | taken t => rw [step_of_taken s t hf, stepWith_of_taken _ s t hf]
  | run i => rw [step_of_run s i hf, stepWith_of_run _ s i hf, exec_eq_execWith]

/-! ### What a step can do, said once -/

/-- An instruction's own errors are not the error of an illegal word. -/
theorem OwnError.code_ne (s : State) (e : StepErr) (h : OwnError s e) : e.code ≠ .unimplementedOpcode := by
  rcases h with rfl | rfl | ⟨a, -, rfl⟩ | ⟨v, -, rfl⟩ <;> simp [StepErr.code]

/-- A step returns FAULT's record; or takes an error, with the word it fetched, which is an AddressRangeError if it fetched none
and an UnimplementedOpcodeError iff the word is illegal; or completes the instruction whose word it fetched (R120, R245). -/
theorem stepWith_cases (rnd : Byte) (s t : State) (h : stepWith rnd s = .next t) :
    (∃ f, s.FAULT = some f ∧ t = returnRecorded s f) ∨
    (s.FAULT = none ∧ ∃ e, t = raise s (fetch s) e ∧ (fetch s = none → e.code = .addressRange) ∧
      ∀ w, fetch s = some w → (e.code = .unimplementedOpcode ↔ decode w = none)) ∨
    (s.FAULT = none ∧ ∃ i, fetch s = some (encode i) ∧ execWith rnd i s = .next t ∧ t.err = none) := by
  rcases front_cases s with ⟨f, hF, hf⟩ | ⟨hF, hw, hf⟩ | ⟨w, hF, hw, hd, hf⟩ | ⟨w, i, hF, hw, hd, hf⟩
  · rw [stepWith_of_taken rnd s _ hf] at h; cases h
    exact .inl ⟨f, hF, rfl⟩
  · rw [stepWith_of_taken rnd s _ hf] at h; cases h
    exact .inr (.inl ⟨hF, _, by rw [hw], fun _ => rfl, by simp [hw]⟩)
  · rw [stepWith_of_taken rnd s _ hf] at h; cases h
    exact .inr (.inl ⟨hF, _, by rw [hw], by simp [hw], by simp [hw, hd, StepErr.code]⟩)
  · have he := encode_of_decode w i hd
    rw [stepWith_of_run rnd s i hf] at h
    obtain ⟨t', ht', ⟨hok, -⟩ | ⟨e, rfl, hown⟩⟩ := execWith_cases rnd i s <;> rw [h] at ht' <;> cases ht'
    · exact .inr (.inr ⟨hF, i, he ▸ hw, h, hok⟩)
    · exact .inr (.inl ⟨hF, e, by rw [hw, he], by simp [hw], by simp [hw, hd, hown.code_ne]⟩)

end Sys2Proof.Machine
end

section
/-! PROOFS, family 10_state. What each instruction may write when it completes (R20 to R30), by one frame rule a state update. -/

namespace Sys2Proof.Machine

/-! ### The frame rules -/

/-- The frame of `Writes.Frame`, and memory the same data where no byte may change. -/
structure Writes.StrictFrame (w : Writes) (s t : State) : Prop extends w.Frame s t where
  sameMem : w.memLen = 0 → t.mem = s.mem

namespace Writes.StrictFrame

variable {w : Writes} {s t : State}

theorem advance (w : Writes) (s : State) : w.StrictFrame s s.advance :=
  ⟨⟨fun _ _ => rfl, fun _ _ => rfl, fun _ => rfl, fun _ => rfl, fun _ => rfl, fun _ => rfl, fun _ => rfl, fun _ => rfl,
    rfl, rfl, fun _ => rfl⟩, fun _ => rfl⟩

theorem setPC (h : w.StrictFrame s t) (v : Word) : w.StrictFrame s (t.setPC v) := { h with }

theorem skipIf (h : w.StrictFrame s t) (c : Bool) : w.StrictFrame s (t.skipIf c) := by
  cases c
  · exact h
  · exact h.setPC _

theorem setV (h : w.StrictFrame s t) (x : Reg) (v : Byte) (hx : x ∈ w.regs) : w.StrictFrame s (t.setV x v) :=
  { h with
    regs := fun r hr => by
      have hne : x ≠ r := fun e => hr (e ▸ hx)
      rw [State.getV_setV, if_neg hne, h.regs r hr] }

theorem setResultThenFlag (h : w.StrictFrame s t) (x : Reg) (v : Byte) (f : Bool) (hx : x ∈ w.regs) (hF : vF ∈ w.regs) :
    w.StrictFrame s (t.setResultThenFlag x v f) :=
  (h.setV x v hx).setV vF _ hF

theorem shiftWith (h : w.StrictFrame s t) (order : ShiftVfOrder) (x : Reg) (bitOut shifted : Byte → Byte)
    (hx : x ∈ w.regs) (hF : vF ∈ w.regs) : w.StrictFrame s (shiftWith order x bitOut shifted t) := by
  cases order with
  | sequential => exact (h.setV vF _ hF).setV x _ hx
  | flagLast => exact (h.setV x _ hx).setV vF _ hF

theorem setI (h : w.StrictFrame s t) (v : Word) (hw : w.I = true) : w.StrictFrame s (t.setI v) :=
  { h with I := fun hf => absurd hw (by simp [hf]) }

theorem setDT (h : w.StrictFrame s t) (v : Byte) (hw : w.DT = true) : w.StrictFrame s (t.setDT v) :=
  { h with DT := fun hf => absurd hw (by simp [hf]) }

theorem setST (h : w.StrictFrame s t) (v : Byte) (hw : w.ST = true) : w.StrictFrame s (t.setST v) :=
  { h with ST := fun hf => absurd hw (by simp [hf]) }

theorem setFb (h : w.StrictFrame s t) (g : Grid) (hw : w.fb = true) : w.StrictFrame s (t.setFb g) :=
  { h with fb := fun hf => absurd hw (by simp [hf]) }

theorem countDraw (h : w.StrictFrame s t) (hw : w.draws = true) : w.StrictFrame s t.countDraw :=
  { h with draws := fun hf => absurd hw (by simp [hf]) }

theorem push (h : w.StrictFrame s t) (v : Word) (hw : w.stack = true) : w.StrictFrame s (t.push v) :=
  { h with SP := fun hf => absurd hw (by simp [hf]), stack := fun hf => absurd hw (by simp [hf]) }

theorem pop (h : w.StrictFrame s t) (hw : w.stack = true) : w.StrictFrame s t.pop :=
  { h with SP := fun hf => absurd hw (by simp [hf]) }

theorem setMem_writeBytes (h : w.StrictFrame s t) (bs : List Byte) (hlen : w.memLen = bs.length) (hpos : w.memLen ≠ 0) :
    w.StrictFrame s (t.setMem (s.mem.writeBytes w.memLo bs)) :=
  { h with
    mem := fun a ha => Memory.read_writeBytes_outside bs s.mem w.memLo a (hlen ▸ ha)
    sameMem := fun h0 => absurd h0 hpos }

theorem setRegs (h : w.StrictFrame s t) (v : Vector Byte 16) (hv : ∀ r, r ∉ w.regs → (s.setRegs v).getV r = s.getV r) :
    w.StrictFrame s (t.setRegs v) :=
  { h with regs := hv }

end Writes.StrictFrame

/-! ### What holds of the state an instruction leaves when it completes -/

/-- `P` holds of the state the outcome answers, if it answers one with Ok. -/
def OnOk (P : State → Prop) (r : Result) : Prop := ∀ t, r = .next t → t.err = none → P t

theorem OnOk.next {P : State → Prop} {t : State} (h : P t) : OnOk P (.next t) := by
  rintro _ ⟨⟩ -; exact h

/-- An instruction whose own rule raises does not complete. -/
theorem OnOk.fail {P : State → Prop} {i : Instr} {s : State} {e : StepErr} : OnOk P (Machine.fail i s e) := by
  rintro _ ⟨⟩ hok; cases hok

theorem OnOk.ite {P : State → Prop} {c : Prop} [Decidable c] {a b : Result} (ha : c → OnOk P a) (hb : ¬ c → OnOk P b) :
    OnOk P (if c then a else b) := by
  split
  · exact ha ‹_›
  · exact hb ‹_›

/-- SKP and SKNP: nothing to show for a key operand out of range. -/
theorem OnOk.skp {P : State → Prop} {x : Reg} {s : State} (h : ∀ c, P (s.advance.skipIf c)) : OnOk P (execSkp x s) := by
  unfold execSkp
  split
  · exact .fail
  · exact .next (h _)

theorem OnOk.sknp {P : State → Prop} {x : Reg} {s : State} (h : ∀ c, P (s.advance.skipIf c)) : OnOk P (execSknp x s) := by
  unfold execSknp
  split
  · exact .fail
  · exact .next (h _)

theorem OnOk.ldVxK {P : State → Prop} {x : Reg} {s : State} (pressed : ∀ v, P (s.advance.setV x v))
    (waiting : P (s.advance.setPC (s.advance.PC - 2#16))) : OnOk P (execLdVxK x s) := by
  unfold execLdVxK
  split
  · exact .next (pressed _)
  · exact .next waiting

/-! ### Each instruction's frame -/

/-- What an instruction may write in a state, PC and the returned error apart (41 to 45 of the spec). -/
def Instr.writes (s : State) : Instr → Writes
  | .ret | .call _ => { stack := true }
  | .cls => { fb := true }
  | .drw _ _ _ => { regs := [vF], fb := true }
  | .ldByte x _ | .addByte x _ | .ldReg x _ | .orReg x _ | .andReg x _ | .xorReg x _ => { regs := [x] }
  | .ldVxDT x | .ldVxK x => { regs := [x] }
  | .addReg x _ | .sub x _ | .subn x _ | .shr x _ | .shl x _ => { regs := [x, vF] }
  | .rnd x _ => { regs := [x], draws := true }
  | .ldI _ | .addI _ | .ldF _ => { I := true }
  | .ldDT _ => { DT := true }
  | .ldST _ => { ST := true }
  | .ldB _ => { memLo := s.I.toNat, memLen := 3 }
  | .ldStore x => { memLo := s.I.toNat, memLen := x.toNat + 1 }
  | .ldLoad x => { regs := (List.range (x.toNat + 1)).map (BitVec.ofNat 4) }
  | .nop | .jp _ | .jpV0 _ | .seByte _ _ | .sneByte _ _ | .seReg _ _ | .sneReg _ _ | .skp _ | .sknp _ => {}

/-- The block load changes no register above Vx (R186). -/
theorem getV_loadedRegs_of_notMem (s : State) (x r : Reg) (hr : r ∉ (Instr.writes s (.ldLoad x)).regs) :
    (s.setRegs (s.loadedRegs x)).getV r = s.getV r := by
  have hgt : ¬ r.toNat ≤ x.toNat := fun hle =>
    hr (List.mem_map.mpr ⟨r.toNat, List.mem_range.mpr (by omega), by simp⟩)
  rw [State.getV_loadedRegs, if_neg hgt]

/-- A completed instruction changes nothing outside its frame. -/
theorem execWith_strictFrame (rnd : Byte) (i : Instr) (s : State) :
    OnOk ((Instr.writes s i).StrictFrame s) (execWith rnd i s) := by
  have ha := Writes.StrictFrame.advance (Instr.writes s i) s
  cases i with
  | nop => exact .next ha
  | jp | jpV0 => exact .next (ha.setPC _)
  | seByte | sneByte | seReg | sneReg => exact .next (ha.skipIf _)
  | skp => exact .skp ha.skipIf
  | sknp => exact .sknp ha.skipIf
  | ret => exact .ite (fun _ => .fail) fun _ => .next ((ha.pop rfl).setPC _)
  | call => exact .ite (fun _ => .fail) fun _ => .next ((ha.push _ rfl).setPC _)
  | ldByte x | addByte x | ldReg x | orReg x | andReg x | xorReg x | ldVxDT x =>
    exact .next (ha.setV x _ (.head _))
  | ldVxK x => exact .ldVxK (fun v => ha.setV x v (.head _)) (ha.setPC _)
  | rnd x => exact .next ((ha.setV x _ (.head _)).countDraw rfl)
  | addReg x | sub x | subn x => exact .next (ha.setResultThenFlag x _ _ (.head _) (.tail _ (.head _)))
  | shr x | shl x => exact .next (ha.shiftWith _ x _ _ (.head _) (.tail _ (.head _)))
  | ldI | addI | ldF => exact .next (ha.setI _ rfl)
  | ldDT => exact .next (ha.setDT _ rfl)
  | ldST => exact .next (ha.setST _ rfl)
  | cls => exact .next (ha.setFb _ rfl)
  | drw => exact .ite (fun _ => .fail) fun _ => .next ((ha.setFb _ rfl).setV vF _ (.head _))
  | ldB => exact .ite (fun _ => .fail) fun _ => .next (ha.setMem_writeBytes _ rfl (by simp [Instr.writes]))
  | ldStore x =>
    exact .ite (fun _ => .fail) fun _ =>
      .next (ha.setMem_writeBytes _ (length_regsUpTo s x).symm (by simp [Instr.writes]))
  | ldLoad x => exact .ite (fun _ => .fail) fun _ => .next (ha.setRegs _ (getV_loadedRegs_of_notMem s x))

end Sys2Proof.Machine
end

section
/-! PROOFS, family 10_state. O50: which words write each element of the state. -/

namespace Sys2Proof.Machine

@[simp] theorem getV_returnRecorded (s : State) (f : FaultRecord) (r : Reg) : (returnRecorded s f).getV r = s.getV r := rfl

/-! ### The words of the instructions that may write an element -/

section

variable {s : State} {i : Instr}

theorem encode_of_writes_stack (h : (Instr.writes s i).stack = true) :
    encode i = 0x00EE#16 ∨ Word.n1 (encode i) = 0x2#4 := by
  cases i with
  | ret => exact .inl rfl
  | call nnn => exact .inr (Word.n1_encodeA _ _)
  | _ => cases h

theorem encode_of_writes_I (h : (Instr.writes s i).I = true) :
    Word.n1 (encode i) = 0xA#4 ∨ (Word.n1 (encode i) = 0xF#4 ∧ Word.kk (encode i) ∈ [0x1E#8, 0x29#8]) := by
  cases i with
  | ldI nnn => exact .inl (Word.n1_encodeA _ _)
  | addI x | ldF x => simp [encode]
  | _ => cases h

theorem encode_of_writes_DT (h : (Instr.writes s i).DT = true) :
    Word.n1 (encode i) = 0xF#4 ∧ Word.kk (encode i) = 0x15#8 := by
  cases i with
  | ldDT x => exact ⟨Word.n1_encodeXK _ _ _, Word.kk_encodeXK _ _ _⟩
  | _ => cases h

theorem encode_of_writes_ST (h : (Instr.writes s i).ST = true) :
    Word.n1 (encode i) = 0xF#4 ∧ Word.kk (encode i) = 0x18#8 := by
  cases i with
  | ldST x => exact ⟨Word.n1_encodeXK _ _ _, Word.kk_encodeXK _ _ _⟩
  | _ => cases h

theorem encode_of_writes_fb (h : (Instr.writes s i).fb = true) :
    encode i = 0x00E0#16 ∨ Word.n1 (encode i) = 0xD#4 := by
  cases i with
  | cls => exact .inl rfl
  | drw x y n => exact .inr (Word.n1_encodeXYN _ _ _ _)
  | _ => cases h

theorem encode_of_writes_mem (h : (Instr.writes s i).memLen ≠ 0) :
    Word.n1 (encode i) = 0xF#4 ∧ Word.kk (encode i) ∈ [0x33#8, 0x55#8] := by
  cases i with
  | ldB x | ldStore x => simp [encode]
  | _ => exact absurd rfl h

/-- A block load that loads VF loads all of V0..VF. -/
theorem eq_vF_of_mem_ldLoad {x : Reg} (h : vF ∈ (Instr.writes s (.ldLoad x)).regs) : x = vF := by
  obtain ⟨k, hk, hv⟩ := List.mem_map.mp h
  have hlt := List.mem_range.mp hk
  apply BitVec.eq_of_toNat_eq
  have := congrArg BitVec.toNat hv
  simp only [BitVec.toNat_ofNat] at this ⊢
  omega

theorem encode_of_writes_vF (h : vF ∈ (Instr.writes s i).regs) :
    (Word.n1 (encode i) = 0x8#4 ∧ Word.n (encode i) ∈ [0x4#4, 0x5#4, 0x6#4, 0x7#4, 0xE#4]) ∨ Word.n1 (encode i) = 0xD#4 ∨
      (Word.x (encode i) = vF ∧ (Word.n1 (encode i) ∈ [0x6#4, 0x7#4, 0xC#4] ∨
        (Word.n1 (encode i) = 0x8#4 ∧ Word.n (encode i) ∈ [0x0#4, 0x1#4, 0x2#4, 0x3#4]) ∨
        (Word.n1 (encode i) = 0xF#4 ∧ Word.kk (encode i) ∈ [0x07#8, 0x0A#8, 0x65#8]))) := by
  cases i with
  | addReg x y | sub x y | shr x y | subn x y | shl x y => exact .inl (by simp [encode])
  | drw x y n => exact .inr (.inl (Word.n1_encodeXYN _ _ _ _))
  | ldByte x | addByte x | rnd x | ldReg x | orReg x | andReg x | xorReg x | ldVxDT x | ldVxK x =>
    have hx : x = vF := (List.mem_singleton.mp h).symm
    subst hx
    exact .inr (.inr (by simp [encode]))
  | ldLoad x =>
    have hx : x = vF := eq_vF_of_mem_ldLoad h
    subst hx
    exact .inr (.inr (by simp [encode]))
  | _ => cases h

end

/-- Settles O50: a failed step writes none of these elements; a completed one stays in its instruction's frame, and the word it
fetched is that instruction's. -/
theorem onlyTheNamedWordsWriteEachElement : Obligations.OnlyTheNamedWordsWriteEachElement := by
  unfold Obligations.OnlyTheNamedWordsWriteEachElement
  intro s t rnd h
  rcases stepWith_cases rnd s t h with ⟨f, -, rfl⟩ | ⟨-, e, rfl, -, -⟩ | ⟨-, i, hw, hx, hok⟩
  · simp
  · simp
  · have hf := execWith_strictFrame rnd i s t hx hok
    exact ⟨fun hne => ⟨_, hw, encode_of_writes_stack (eq_true_of_ne_false fun h0 =>
        hne.elim (· (hf.SP h0)) (· (hf.stack h0)))⟩,
      fun hne => ⟨_, hw, encode_of_writes_I (eq_true_of_ne_false fun h0 => hne (hf.I h0))⟩,
      fun hne => ⟨_, hw, encode_of_writes_DT (eq_true_of_ne_false fun h0 => hne (hf.DT h0))⟩,
      fun hne => ⟨_, hw, encode_of_writes_ST (eq_true_of_ne_false fun h0 => hne (hf.ST h0))⟩,
      fun hne => ⟨_, hw, encode_of_writes_fb (eq_true_of_ne_false fun h0 => hne (hf.fb h0))⟩,
      fun hne => ⟨_, hw, encode_of_writes_mem fun h0 => hne (hf.sameMem h0)⟩,
      fun hne => ⟨_, hw, encode_of_writes_vF (by_contra fun h0 => hne (hf.regs vF h0))⟩, hf.key⟩

end Sys2Proof.Machine
end

section
/-! PROOFS, family 10_state. O51 and O52: the invariant holds at reset and every step keeps it. -/

namespace Sys2Proof.Machine

/-! ### FAULT stays consistent -/

theorem faultConsistent_of_none {s : State} (h : s.FAULT = none) : FaultConsistent s := by
  intro f hf
  rw [h] at hf
  cases hf

/-- The record of an error taken at the fetch, at decode or by the instruction's own rule (R243). -/
theorem faultConsistent_raise {s : State} {e : StepErr} (hF : s.FAULT = none)
    (hnone : fetch s = none → e.code = .addressRange)
    (hword : ∀ w, fetch s = some w → (e.code = .unimplementedOpcode ↔ decode w = none)) :
    FaultConsistent (raise s (fetch s) e) := by
  by_cases hfatal : e.code.fatal = true
  · intro f hf
    rw [raise_of_fatal s _ e hfatal] at hf
    cases hf
    refine ⟨hfatal, rfl, fun h => ⟨hnone h, (fetch_eq_none s).mp h⟩, fun h => ?_, hword⟩
    exact Nat.lt_of_not_le fun hle => h ((fetch_eq_none s).mpr hle)
  · exact faultConsistent_of_none (by simp [hfatal, hF])

/-! ### PC and the return addresses stay in reach -/

theorem PC_le_of_fetch {s : State} {w : Word} (h : fetch s = some w) : s.PC.toNat ≤ 4094 := by
  have hne : fetch s ≠ none := by simp [h]
  have := mt (fetch_eq_none s).mpr hne
  omega

/-- The entry a pop reads is one in use. -/
theorem PcInReach.top_le {s : State} (h : PcInReach s) (h0 : s.SP.val ≠ 0) : s.top.toNat ≤ 4096 :=
  h.2 ⟨s.SP.val - 1, by omega⟩ (Nat.sub_one_lt h0)

/-- From a fetched instruction PC goes on by 2 or 4, stays, or is what a jump or a return gives it (R125, R149). -/
theorem execWith_PC_le (rnd : Byte) (i : Instr) (s : State) (hp : s.PC.toNat ≤ 4094) (hr : PcInReach s) :
    OnOk (fun t => t.PC.toNat ≤ 0x10FE) (execWith rnd i s) := by
  have ha : s.advance.PC.toNat ≤ 0x10FE := by simp only [State.advance_PC, BitVec.toNat_add, BitVec.toNat_ofNat]; omega
  have hskip : ∀ c, (s.advance.skipIf c).PC.toNat ≤ 0x10FE := by
    intro c
    cases c
    · exact ha
    · show (s.PC + 2#16 + 2#16).toNat ≤ 0x10FE
      simp only [BitVec.toNat_add, BitVec.toNat_ofNat]; omega
  have hjump : ∀ nnn : Addr, (addrWord nnn).toNat ≤ 0x10FE := fun nnn => by rw [addrWord_toNat]; omega
  cases i with
  | jp nnn => exact .next (hjump nnn)
  | jpV0 nnn =>
    refine .next ?_
    simp only [State.setPC_PC, BitVec.toNat_add, addrWord_toNat, byteWord_toNat]
    omega
  | seByte | sneByte | seReg | sneReg => exact .next (hskip _)
  | skp => exact .skp hskip
  | sknp => exact .sknp hskip
  | ret => exact .ite (fun _ => .fail) fun h0 => .next ((hr.top_le h0).trans (by decide))
  | call nnn => exact .ite (fun _ => .fail) fun _ => .next (hjump nnn)
  | ldVxK => exact .ldVxK (fun _ => ha) (by simp only [State.setPC_PC, State.advance_PC, BitVec.add_sub_cancel]; omega)
  | drw | ldB | ldStore | ldLoad => exact .ite (fun _ => .fail) fun _ => .next ha
  | _ => exact .next ha

/-- Only CALL puts a new entry in use: the address behind it (R144). -/
theorem execWith_returns_le (rnd : Byte) (i : Instr) (s : State) (hp : s.PC.toNat ≤ 4094) (hr : PcInReach s) :
    OnOk (fun t => ∀ j : Fin 16, j.val < t.SP.val → t.stack[j.val].toNat ≤ 4096) (execWith rnd i s) := by
  have hs := hr.2
  cases i with
  | ret => exact .ite (fun _ => .fail) fun _ => .next fun j hj => hs j (hj.trans_le (Nat.sub_le ..))
  | call nnn =>
    refine .ite (fun _ => .fail) fun _ => .next fun j hj => ?_
    simp only [State.setPC_SP, State.push_SP, State.setPC_stack, State.push_stack, State.advance_SP, State.advance_stack,
      State.advance_PC, Vector.getElem_setIfInBounds] at hj ⊢
    split
    · simp only [BitVec.toNat_add, BitVec.toNat_ofNat]; omega
    · exact hs j (by omega)
  | _ =>
    intro t ht hok
    have hf := execWith_strictFrame rnd _ s t ht hok
    rw [hf.SP rfl, hf.stack rfl]
    exact hs

/-! ### The invariant -/

/-- A step keeps the invariant: what it records is consistent, and what it completes leaves memory canonical and PC and the
return addresses in reach. -/
theorem stepWith_keeps_inv {s t : State} {rnd : Byte} (hI : Inv s) (h : stepWith rnd s = .next t) : Inv t := by
  rcases stepWith_cases rnd s t h with ⟨f, -, rfl⟩ | ⟨hF, e, rfl, hnone, hword⟩ | ⟨hF, i, hw, hx, hok⟩
  · exact ⟨hI.mem, hI.fault, hI.pc⟩
  · exact ⟨hI.mem, faultConsistent_raise hF hnone hword, hI.pc⟩
  · have hp := PC_le_of_fetch hw
    obtain ⟨t', ht', ⟨-, hFt, -, hwf⟩ | ⟨e, rfl, -⟩⟩ := execWith_cases rnd i s <;> rw [hx] at ht' <;> cases ht'
    · exact ⟨hwf hI.mem, faultConsistent_of_none (hFt.trans hF),
        execWith_PC_le rnd i s hp hI.pc t hx hok, execWith_returns_le rnd i s hp hI.pc t hx hok⟩
    · cases hok

/-- The reset state meets the invariant, whatever the model's draw counter is at. -/
theorem inv_reset (d : Nat) : Inv { State.reset with draws := d } where
  mem := Memory.wf_reset
  fault := faultConsistent_of_none rfl
  pc := ⟨show (512#16).toNat ≤ 0x10FE by decide, fun _ hj => absurd hj (Nat.not_lt_zero _)⟩

/-- Settles O51. -/
theorem resetMeetsTheInvariant : Obligations.ResetMeetsTheInvariant :=
  ⟨inv_reset 0, fun s => inv_reset s.draws⟩

/-- Settles O52: the machine's step is the step with some random input, and that keeps the invariant. -/
theorem stepKeepsTheInvariant : Obligations.StepKeepsTheInvariant :=
  ⟨fun s _ hI h => stepWith_keeps_inv hI (step_eq_stepWith s ▸ h), fun _ _ _ hI h => stepWith_keeps_inv hI h⟩

end Sys2Proof.Machine
end

section
/-! PROOFS, family 10_state. O9, O13 and O48: a faulted machine, and a placed word. -/

namespace Sys2Proof.Machine

/-- Settles O9: the front of a step finds FAULT set before it fetches. -/
theorem faultedStepReturnsTheRecord : Obligations.FaultedStepReturnsTheRecord := by
  intro s f rnd hF
  have hf := front_of_fault s f hF
  exact ⟨returnRecorded s f, step_of_taken s _ hf, stepWith_of_taken rnd s _ hf, rfl, rfl⟩

theorem placeWord_PC_of_room (s : State) (w : Word) (h : s.PC.toNat + 2 ≤ 4096) : (placeWord s w).PC = s.PC := if_pos h

theorem placeWord_mem (s : State) (w : Word) :
    (placeWord s w).mem = s.mem.writeBytes (placeWord s w).PC.toNat [Word.hi w, Word.lo w] := rfl

/-- Settles O13. -/
theorem placedWordIsTheNextInstruction : Obligations.PlacedWordIsTheNextInstruction := by
  intro s nbits w i hd
  rw [decodeTableWord_eq] at hd
  obtain ⟨hfetch, hF⟩ := fetch_placeWord s (tableWord nbits w)
  have hstep := step_of_run _ i (front_of_decoded _ _ i hF hfetch hd)
  refine ⟨hstep, rfl, placeWord_PC_of_room s _, fun a ha => ?_⟩
  exact (congrArg (Memory.read · a) (placeWord_mem s _)).trans (Memory.read_writeBytes_outside _ _ _ a ha)

/-! ### What FAULT keeps through the host's operations -/

/-- FAULT and the elements of a running program that neither the host's other operations nor a step of a faulted machine
write. -/
structure SameProgram (s t : State) : Prop where
  FAULT : t.FAULT = s.FAULT
  V : t.V = s.V
  I : t.I = s.I
  PC : t.PC = s.PC
  SP : t.SP = s.SP
  stack : t.stack = s.stack
  fb : t.fb = s.fb

theorem SameProgram.refl (s : State) : SameProgram s s := ⟨rfl, rfl, rfl, rfl, rfl, rfl, rfl⟩

theorem SameProgram.trans {s t u : State} (h : SameProgram s t) (h' : SameProgram t u) : SameProgram s u :=
  ⟨h'.FAULT.trans h.FAULT, h'.V.trans h.V, h'.I.trans h.I, h'.PC.trans h.PC, h'.SP.trans h.SP, h'.stack.trans h.stack,
    h'.fb.trans h.fb⟩

theorem sameProgram_load (s : State) (data : List Byte) : SameProgram s (orUnchanged s (load s data)).1 := by
  by_cases h : 512 + data.length ≤ 4096
  · rw [load_of_fits s data h]; exact ⟨rfl, rfl, rfl, rfl, rfl, rfl, rfl⟩
  · rw [load_of_too_long s data (by omega)]; exact .refl s

theorem sameProgram_setKey (s : State) (index : Nat) (pressed : Bool) :
    SameProgram s (orUnchanged s (setKey s index pressed)).1 := by
  by_cases h : index < 16
  · rw [setKey_of_lt s index pressed h]; exact ⟨rfl, rfl, rfl, rfl, rfl, rfl, rfl⟩
  · rw [setKey_of_ge s index pressed (by omega)]; exact .refl s

/-- A step of a faulted machine answers the record, whatever its random input. -/
theorem stepWith_of_fault (rnd : Byte) (s : State) (f : FaultRecord) (h : s.FAULT = some f) :
    stepWith rnd s = .next (returnRecorded s f) :=
  stepWith_of_taken rnd s _ (front_of_fault s f h)

/-- Every operation but reset, and but a step of a machine that is not faulted, keeps FAULT and the program's elements. -/
theorem HostOp.apply_sameProgram (op : HostOp) (s : State) (hreset : op ≠ .reset)
    (hstep : (∀ rnd, op ≠ .step rnd) ∨ ∃ f, s.FAULT = some f) :
    ∃ t r, op.apply s = .next (t, r) ∧ SameProgram s t := by
  cases op with
  | reset => exact absurd rfl hreset
  | load data => exact ⟨_, _, rfl, sameProgram_load s data⟩
  | setKey index pressed => exact ⟨_, _, rfl, sameProgram_setKey s index pressed⟩
  | tickTimers => exact ⟨_, _, rfl, ⟨rfl, rfl, rfl, rfl, rfl, rfl, rfl⟩⟩
  | framebuffer | readTimers | inspect => exact ⟨_, _, rfl, .refl s⟩
  | step rnd =>
    obtain ⟨f, hF⟩ := hstep.resolve_left fun h => h rnd rfl
    have happly : (HostOp.step rnd).apply s = .next (returnRecorded s f, stepReply (returnRecorded s f)) := by
      simp only [HostOp.apply, stepWith_of_fault rnd s f hF]
    exact ⟨_, _, happly, ⟨rfl, rfl, rfl, rfl, rfl, rfl, rfl⟩⟩

theorem runOps_cons (op : HostOp) (ops : List HostOp) (s t : State) (r : HostReply) (h : op.apply s = .next (t, r)) :
    runOps (op :: ops) s = runOps ops t := by
  simp only [runOps, h]

/-- A run without reset keeps a set FAULT and the program's elements. -/
theorem runOps_sameProgram (ops : List HostOp) (s : State) (f : FaultRecord) (hF : s.FAULT = some f)
    (hreset : HostOp.reset ∉ ops) : ∃ t, runOps ops s = .next t ∧ SameProgram s t := by
  induction ops generalizing s with
  | nil => exact ⟨s, rfl, .refl s⟩
  | cons op ops ih =>
    obtain ⟨hne, hrest⟩ := List.ne_and_not_mem_of_not_mem_cons hreset
    obtain ⟨t, r, happly, ht⟩ := HostOp.apply_sameProgram op s hne.symm (.inr ⟨f, hF⟩)
    obtain ⟨u, hrun, hu⟩ := ih t (ht.FAULT.trans hF) hrest
    exact ⟨u, (runOps_cons op ops s t r happly).trans hrun, ht.trans hu⟩

/-- Settles O48. -/
theorem fatalErrorSticksUntilReset : Obligations.FatalErrorSticksUntilReset := by
  refine ⟨fun ops s f hF hreset => ?_, fun op s t r h hreset hstep => ?_⟩
  · obtain ⟨t, hrun, ht⟩ := runOps_sameProgram ops s f hF hreset
    have htF := ht.FAULT.trans hF
    exact ⟨t, hrun, htF, ht.V, ht.I, ht.PC, ht.SP, ht.stack, ht.fb, fun rnd => stepWith_of_fault rnd t f htF⟩
  · obtain ⟨t', r', happly, ht⟩ := HostOp.apply_sameProgram op s hreset (.inl hstep)
    rw [h] at happly
    cases happly
    exact ht.FAULT

end Sys2Proof.Machine
end

section
/-! PROOFS, family 10_state. O42, O46 and O47: the timers, the reset values and the read ports. -/

namespace Sys2Proof.Machine

/-! ### The timers -/

theorem countDown_toNat (t : Byte) : (countDown t).toNat = t.toNat - 1 := by
  unfold countDown
  split
  · rw [BitVec.toNat_sub, BitVec.toNat_ofNat]; omega
  · omega

/-- Settles O42, by induction on the number of ticks: each lowers both timers by 1 down to 0. -/
theorem timersReachZeroAndStay : Obligations.TimersReachZeroAndStay := by
  intro n
  induction n with
  | zero => exact fun s => ⟨s, rfl, rfl, rfl, rfl⟩
  | succ n ih =>
    intro s
    obtain ⟨t, hrun, hDT, hST, ht⟩ := ih (tickTimers s).1
    have hDT1 : (tickTimers s).1.DT.toNat = s.DT.toNat - 1 := countDown_toNat s.DT
    have hST1 : (tickTimers s).1.ST.toNat = s.ST.toNat - 1 := countDown_toNat s.ST
    exact ⟨t, hrun, by omega, by omega, ht⟩

/-! ### The read ports -/

/-- The framebuffer's pixels, row after row, as one vector (R267). -/
theorem framebuffer_eq_flatten (s : State) : framebuffer s = s.fb.flatten.toList := by
  rw [← Vector.toList_toArray, Vector.flatten, Array.toList_flatten, Array.toList_map, List.map_map]
  rfl

theorem length_framebuffer (s : State) : (framebuffer s).length = 2048 := by
  rw [framebuffer_eq_flatten, Vector.length_toList]

theorem framebuffer_pixel (s : State) (r : Fin 32) (c : Fin 64) :
    (framebuffer s)[r.val * 64 + c.val]? = some (s.fb.pixel r c) := by
  have hr : (r.val * 64 + c.val) / 64 = r.val := by omega
  have hc : (r.val * 64 + c.val) % 64 = c.val := by omega
  rw [framebuffer_eq_flatten, List.getElem?_eq_getElem (by rw [Vector.length_toList]; omega), Vector.getElem_toList,
    Vector.getElem_flatten]
  simp only [hr, hc, Grid.pixel]

/-- Settles O47. -/
theorem readPortsShowTheState : Obligations.ReadPortsShowTheState := fun s =>
  ⟨⟨framebuffer s, rfl, length_framebuffer s, framebuffer_pixel s⟩, ⟨toneOn s, rfl, decide_eq_true_iff⟩,
    ⟨inspect s, rfl, rfl⟩⟩

/-! ### The reset values -/

/-- Reset memory reads as the glyph table, and as 0 where that ends (R34). -/
theorem read_reset_mem (a : Nat) : State.reset.mem.read a = glyphTable.getD a 0#8 := rfl

theorem getV_reset (r : Reg) : State.reset.getV r = 0#8 := Vector.getElem_replicate _

theorem pixel_reset (r : Fin 32) (c : Fin 64) : State.reset.fb.pixel r c = false := Grid.pixel_clear r c

theorem eq_reset_of_mem {s t : State} (h : t ∈ [State.reset, newVM, resetVM s]) : t = { State.reset with draws := t.draws } := by
  simp only [List.mem_cons, List.not_mem_nil, or_false] at h
  rcases h with rfl | rfl | rfl <;> rfl

/-- Settles O46: the three states are the reset state but for the model's draw counter. -/
theorem resetStateValues : Obligations.ResetStateValues := by
  have hlen : glyphTable.length = 80 := rfl
  refine ⟨hlen, fun s t ht => ?_⟩
  rw [eq_reset_of_mem ht]
  refine ⟨fun a ha => ?_, fun a ha _ => ?_, getV_reset, rfl, rfl, rfl, fun j hj => ?_, rfl, rfl, pixel_reset,
    fun k hk => ?_, rfl⟩
  · exact (congrArg some (List.getD_eq_getElem _ _ (hlen ▸ ha))).trans (List.getElem?_eq_getElem (hlen ▸ ha)).symm
  · exact List.getD_eq_default _ _ (hlen ▸ ha)
  · simp [State.reset, hj]
  · simp [State.reset, hk]

end Sys2Proof.Machine
end

section
/-! PROOFS, family 20_memory. O54: the canonical form holds one list for each content of memory. -/

namespace Sys2Proof.Machine

/-- In a list of rising addresses a listed cell is what its address reads as. -/
theorem Memory.read_of_mem {m : Memory} {c : Host.Cell} (hm : m.Pairwise fun d e => d.1 < e.1) (hc : c ∈ m) :
    m.read c.1 = c.2 := by
  induction m with
  | nil => cases hc
  | cons d m ih =>
    obtain ⟨hd, hm⟩ := List.pairwise_cons.mp hm
    rw [Memory.read_cons]
    rcases List.mem_cons.mp hc with rfl | hc
    · exact if_pos rfl
    · rw [if_neg (hd c hc).ne', ih hm hc]

/-- A byte that differs from the reset content of its address is listed. -/
theorem Memory.mem_of_read_ne_unlisted {m : Memory} {a : Nat} (h : m.read a ≠ Memory.unlisted a) : (a, m.read a) ∈ m := by
  induction m with
  | nil => exact absurd (Memory.read_nil a) h
  | cons c m ih =>
    by_cases hac : a = c.1
    · rw [Memory.read_cons, if_pos hac, hac]; exact .head m
    · rw [Memory.read_cons, if_neg hac] at h ⊢; exact .tail c (ih h)

/-- A canonical memory lists nothing but what another memory with the same bytes lists too. -/
theorem Memory.subset_of_read_eq {m m' : Memory} (hm : m.wf = true) (h : ∀ a, a < 4096 → m.read a = m'.read a) :
    m ⊆ m' := by
  intro c hc
  obtain ⟨hp, hall⟩ := (Memory.wf_iff m).mp hm
  obtain ⟨hlt, hne⟩ := hall c hc
  have hread : m'.read c.1 = c.2 := (h c.1 hlt).symm.trans (Memory.read_of_mem hp hc)
  have hmem : (c.1, m'.read c.1) ∈ m' := Memory.mem_of_read_ne_unlisted (hread ▸ hne)
  rwa [hread] at hmem

/-- Settles O54: with the same bytes the two lists have the same cells, and both are sorted. -/
theorem canonicalMemoriesAreEqualIffTheirBytesAre : Obligations.CanonicalMemoriesAreEqualIffTheirBytesAre := by
  intro m m' hm hm'
  refine ⟨fun h a _ => h ▸ rfl, fun h => ?_⟩
  have : Std.Irrefl fun c d : Host.Cell => c.1 < d.1 := ⟨fun c => lt_irrefl c.1⟩
  have : Std.Antisymm fun c d : Host.Cell => c.1 < d.1 := ⟨fun _ _ hcd hdc => absurd hcd hdc.asymm⟩
  exact List.Subset.antisymm_of_pairwise ((Memory.wf_iff m).mp hm).1 ((Memory.wf_iff m').mp hm').1
    (Memory.subset_of_read_eq hm h) (Memory.subset_of_read_eq hm' fun a ha => (h a ha).symm)

end Sys2Proof.Machine
end

section
/-! PROOFS, family 20_memory. O6, O8 and O34: the fetch reads the two bytes at PC, big-endian. -/

namespace Sys2Proof.Machine

/-! ### A step by what its fetch finds -/

/-- Two bytes decode to the instruction of the word they make. -/
theorem decode_of_decodeBytes {hi lo : Byte} {rest rest' : List Byte} {i : Instr}
    (h : decodeBytes (hi :: lo :: rest) = .ok (i, rest')) : decode (Word.ofBytes hi lo) = some i := by
  cases hd : decode (Word.ofBytes hi lo) with
  | none => simp [decodeBytes, hd] at h
  | some j => rw [decodeBytes_cons hi lo rest j hd] at h; cases h; rfl

theorem Memory.readBytes_two (m : Memory) (a : Nat) : m.readBytes a 2 = [m.read a, m.read (a + 1)] := rfl

/-- Settles O6. -/
theorem stepRunsTheDecodedInstruction : Obligations.StepRunsTheDecodedInstruction := by
  intro s i hF hPC hd
  rw [Memory.readBytes_two] at hd
  have hf := front_of_decoded s _ i hF (fetch_eq_some s hPC) (decode_of_decodeBytes hd)
  exact ⟨step_of_run s i hf, fun rnd => stepWith_of_run rnd s i hf⟩

theorem front_of_no_fetch (s : State) (hF : s.FAULT = none) (hw : fetch s = none) :
    front s = .taken (raise s none (.addressRange s.PC.toNat s.PC)) := by
  simp [front, hF, hw]

/-- Settles O8. -/
theorem fetchPastTheEndTakesAddressRange : Obligations.FetchPastTheEndTakesAddressRange := by
  intro s hF hPC
  have hf := front_of_no_fetch s hF ((fetch_eq_none s).mpr hPC)
  exact ⟨_, step_of_taken s _ hf, raise_only s _ _, raise_of_fatal s _ _ rfl, rfl⟩

/-! ### Stored code is what the next step fetches -/

/-- The block store's byte at I + k is register k (R185). -/
theorem Memory.read_writeBytes_regsUpTo (m : Memory) (s : State) (a : Nat) (x r : Reg) (h : r.toNat ≤ x.toNat) :
    (m.writeBytes a (s.regsUpTo x)).read (a + r.toNat) = s.getV r := by
  rw [Memory.read_writeBytes, if_pos (by rw [length_regsUpTo]; omega), Nat.add_sub_cancel_left, getD_regsUpTo s x r h]

/-- Settles O34: the store's first two bytes are the word at the PC it leaves. -/
theorem storedWordIsFetchedNext : Obligations.StoredWordIsFetchedNext := by
  intro x s hx hPC hI hIx
  have hnext : (s.PC + 2#16).toNat = s.I.toNat := by rw [BitVec.toNat_add, BitVec.toNat_ofNat]; omega
  have hroom : (s.PC + 2#16).toNat + 2 ≤ 4096 := by omega
  have h0 : (s.mem.writeBytes s.I.toNat (s.regsUpTo x)).read s.I.toNat = s.getV 0x0#4 :=
    Memory.read_writeBytes_regsUpTo s.mem s s.I.toNat x 0x0#4 (Nat.zero_le _)
  have h1 : (s.mem.writeBytes s.I.toNat (s.regsUpTo x)).read (s.I.toNat + 1) = s.getV 0x1#4 :=
    Memory.read_writeBytes_regsUpTo s.mem s s.I.toNat x 0x1#4 hx
  refine ⟨_, _, exec_ldStore_of_inside x s hIx, rfl, fetch_eq_some _ hroom, ?_⟩
  rw [State.setMem_mem, State.setMem_PC, State.advance_PC, hnext, h0, h1, Word.toNat_ofBytes, Nat.mul_comm]

end Sys2Proof.Machine
end

section
/-! PROOFS, family 30_encoding. O1, O2, O5: decode and encode are inverse to each other, group by group of the decoder (R92, R95). -/

namespace Sys2Proof

/-! ### Each group of the decoder on the words of its format -/

theorem decode_encodeXYN_5 (x y n : Nibble) :
    decode (encodeXYN 0x5#4 x y n) = if n = 0x0#4 then some (.seReg x y) else none := by
  simp [decode_n1_5 _ (Word.n1_encodeXYN ..)]

theorem decode_encodeXYN_8 (x y n : Nibble) : decode (encodeXYN 0x8#4 x y n) = decodeGroup8 x y n := by
  simp [decode_n1_8 _ (Word.n1_encodeXYN ..)]

theorem decode_encodeXYN_9 (x y n : Nibble) :
    decode (encodeXYN 0x9#4 x y n) = if n = 0x0#4 then some (.sneReg x y) else none := by
  simp [decode_n1_9 _ (Word.n1_encodeXYN ..)]

theorem decode_encodeXK_E (x : Reg) (kk : Byte) : decode (encodeXK 0xE#4 x kk) = decodeGroupE x kk := by
  simp [decode_n1_E _ (Word.n1_encodeXK ..)]

theorem decode_encodeXK_F (x : Reg) (kk : Byte) : decode (encodeXK 0xF#4 x kk) = decodeGroupF x kk := by
  simp [decode_n1_F _ (Word.n1_encodeXK ..)]

/-! ### The round trip -/

/-- The instructions of the groups 8, E and F are what their group answers on the row's fixed nibbles; the others are alone under
their major nibble. -/
theorem decode_encode (i : Instr) : decode (encode i) = some i := by
  cases i with
  | nop | cls | ret => rfl
  | jp nnn => simp [encode, decode_n1_1 _ (Word.n1_encodeA ..)]
  | call nnn => simp [encode, decode_n1_2 _ (Word.n1_encodeA ..)]
  | ldI nnn => simp [encode, decode_n1_A _ (Word.n1_encodeA ..)]
  | jpV0 nnn => simp [encode, decode_n1_B _ (Word.n1_encodeA ..)]
  | seByte x kk => simp [encode, decode_n1_3 _ (Word.n1_encodeXK ..)]
  | sneByte x kk => simp [encode, decode_n1_4 _ (Word.n1_encodeXK ..)]
  | ldByte x kk => simp [encode, decode_n1_6 _ (Word.n1_encodeXK ..)]
  | addByte x kk => simp [encode, decode_n1_7 _ (Word.n1_encodeXK ..)]
  | rnd x kk => simp [encode, decode_n1_C _ (Word.n1_encodeXK ..)]
  | drw x y n => simp [encode, decode_n1_D _ (Word.n1_encodeXYN ..)]
  | seReg x y => exact decode_encodeXYN_5 x y 0x0#4
  | sneReg x y => exact decode_encodeXYN_9 x y 0x0#4
  | ldReg x y | orReg x y | andReg x y | xorReg x y | addReg x y | sub x y | shr x y | subn x y | shl x y =>
    exact decode_encodeXYN_8 x y _
  | skp x | sknp x => exact decode_encodeXK_E x _
  | ldVxDT x | ldVxK x | ldDT x | ldST x | addI x | ldF x | ldB x | ldStore x | ldLoad x => exact decode_encodeXK_F x _

/-- Settles O1: the two bytes of an instruction make its word again, big-endian. -/
theorem decodeOfEncodeIsTheInstruction : Obligations.DecodeOfEncodeIsTheInstruction := fun i rest =>
  ⟨decode_encode i, decodeBytes_cons _ _ rest i ((congrArg decode (Word.ofBytes_hi_lo (encode i))).trans (decode_encode i))⟩

/-- Settles O2: no group of the decoder drops a bit of the word. -/
theorem decodedInstructionEncodesToItsWord : Obligations.DecodedInstructionEncodesToItsWord := encode_of_decode

/-- Settles O5, by evaluating the decoder on each word. -/
theorem sampleWordsDecode : Obligations.SampleWordsDecode := by
  unfold Obligations.SampleWordsDecode
  decide

end Sys2Proof
end

section
/-! PROOFS, family 30_encoding. O4: the illegal words, group by group of the decoder (R94), and the step that fetches one. -/

namespace Sys2Proof

/-! ### What each group of the decoder rejects -/

theorem decodeGroup0_eq_none (w : Word) : decodeGroup0 w = none ↔ w ≠ 0x0000#16 ∧ w ≠ 0x00E0#16 ∧ w ≠ 0x00EE#16 := by
  unfold decodeGroup0
  split_ifs <;> simp_all

theorem decodeGroup8_eq_none (x y : Reg) (n : Nibble) :
    decodeGroup8 x y n = none ↔ n ∈ [0x8#4, 0x9#4, 0xA#4, 0xB#4, 0xC#4, 0xD#4, 0xF#4] := by
  rcases nibble_cases n with rfl | rfl | rfl | rfl | rfl | rfl | rfl | rfl | rfl | rfl | rfl | rfl | rfl | rfl | rfl | rfl <;>
    simp [decodeGroup8]

theorem decodeGroupE_eq_none (x : Reg) (kk : Byte) : decodeGroupE x kk = none ↔ kk ∉ [0x9E#8, 0xA1#8] := by
  unfold decodeGroupE
  split_ifs <;> simp_all

theorem decodeGroupF_eq_none (x : Reg) (kk : Byte) :
    decodeGroupF x kk = none ↔ kk ∉ [0x07#8, 0x0A#8, 0x15#8, 0x18#8, 0x1E#8, 0x29#8, 0x33#8, 0x55#8, 0x65#8] := by
  unfold decodeGroupF
  split_ifs <;> simp_all

/-- The major nibbles under which a word can be illegal (R94), and the rest. -/
theorem nibble_cases_illegal : ∀ v : Nibble, v = 0x0#4 ∨ v = 0x5#4 ∨ v = 0x8#4 ∨ v = 0x9#4 ∨ v = 0xE#4 ∨ v = 0xF#4 ∨
    v ∈ [0x1#4, 0x2#4, 0x3#4, 0x4#4, 0x6#4, 0x7#4, 0xA#4, 0xB#4, 0xC#4, 0xD#4] := by decide

/-- Under the other major nibbles every word is legal: the operand fields fill the word (R92). -/
theorem decode_ne_none_of_n1 (w : Word)
    (h : Word.n1 w ∈ [0x1#4, 0x2#4, 0x3#4, 0x4#4, 0x6#4, 0x7#4, 0xA#4, 0xB#4, 0xC#4, 0xD#4]) : decode w ≠ none := by
  simp only [List.mem_cons, List.not_mem_nil, or_false] at h
  rcases h with hn | hn | hn | hn | hn | hn | hn | hn | hn | hn <;> simp [decode, hn]

/-- The table of illegal words (R94). -/
theorem decode_eq_none_iff (w : Word) : decode w = none ↔
    (Word.n1 w = 0x0#4 ∧ w ≠ 0x0000#16 ∧ w ≠ 0x00E0#16 ∧ w ≠ 0x00EE#16) ∨
    ((Word.n1 w = 0x5#4 ∨ Word.n1 w = 0x9#4) ∧ Word.n w ≠ 0x0#4) ∨
    (Word.n1 w = 0x8#4 ∧ Word.n w ∈ [0x8#4, 0x9#4, 0xA#4, 0xB#4, 0xC#4, 0xD#4, 0xF#4]) ∨
    (Word.n1 w = 0xE#4 ∧ Word.kk w ∉ [0x9E#8, 0xA1#8]) ∨
    (Word.n1 w = 0xF#4 ∧
      Word.kk w ∉ [0x07#8, 0x0A#8, 0x15#8, 0x18#8, 0x1E#8, 0x29#8, 0x33#8, 0x55#8, 0x65#8]) := by
  rcases nibble_cases_illegal (Word.n1 w) with hn | hn | hn | hn | hn | hn | hn
  · rw [decode_n1_0 w hn, decodeGroup0_eq_none]; simp [hn]
  · rw [decode_n1_5 w hn]; simp [hn]
  · rw [decode_n1_8 w hn, decodeGroup8_eq_none]; simp [hn]
  · rw [decode_n1_9 w hn]; simp [hn]
  · rw [decode_n1_E w hn, decodeGroupE_eq_none]; simp [hn]
  · rw [decode_n1_F w hn, decodeGroupF_eq_none]; simp [hn]
  · have hd : decode w ≠ none := decode_ne_none_of_n1 w hn
    simp only [List.mem_cons, List.not_mem_nil, or_false] at hn
    rcases hn with hn | hn | hn | hn | hn | hn | hn | hn | hn | hn <;> simp [hd, hn]

end Sys2Proof

namespace Sys2Proof.Machine

theorem front_of_illegal (s : State) (w : Word) (hF : s.FAULT = none) (hw : fetch s = some w) (hd : decode w = none) :
    front s = .taken (raise s (some w) (.unimplementedOpcode w s.PC)) := by
  simp [front, hF, hw, hd]

/-- Settles O4: the front of a step raises on the word it fetched. -/
theorem illegalWordsAreThoseOfTheTable : Obligations.IllegalWordsAreThoseOfTheTable :=
  ⟨decode_eq_none_iff, fun s w hF hw hd =>
    ⟨_, step_of_taken s _ (front_of_illegal s w hF hw hd), raise_only s _ _, raise_of_fatal s _ _ rfl, rfl⟩⟩

end Sys2Proof.Machine
end

section
/-! PROOFS, family 30_encoding. O3: the opcode map. A row's mask is the mask of its major nibble's format, so the rows that cover a
word are those whose pattern is the word under that one mask, and the patterns are distinct (R92, R93). -/

namespace Sys2Proof

/-! ### The fixed bits of a word -/

/-- The bits that the format of a major nibble fixes: all of Z, n1 and n4 of XY, n1 and the low byte of X, n1 of the others (R92). -/
def formatMask (n1 : Nibble) : Word :=
  if n1 = 0x0#4 then 0xFFFF#16
  else if n1 = 0x5#4 ∨ n1 = 0x8#4 ∨ n1 = 0x9#4 then 0xF00F#16
  else if n1 = 0xE#4 ∨ n1 = 0xF#4 then 0xF0FF#16
  else 0xF000#16

/-- A word with its operand fields cleared. -/
def Word.fixedBits (w : Word) : Word := w &&& formatMask (Word.n1 w)

theorem Word.n1_and (v w : Word) : Word.n1 (v &&& w) = Word.n1 v &&& Word.n1 w := BitVec.extractLsb'_and
theorem Word.n_and (v w : Word) : Word.n (v &&& w) = Word.n v &&& Word.n w := BitVec.extractLsb'_and
theorem Word.kk_and (v w : Word) : Word.kk (v &&& w) = Word.kk v &&& Word.kk w := BitVec.extractLsb'_and

/-- Every format fixes the major nibble. -/
theorem n1_formatMask : ∀ v : Nibble, Word.n1 (formatMask v) = BitVec.allOnes 4 := by decide

@[simp] theorem Word.n1_fixedBits (w : Word) : Word.n1 (Word.fixedBits w) = Word.n1 w := by
  rw [Word.fixedBits, Word.n1_and, n1_formatMask, BitVec.and_allOnes]

theorem Word.fixedBits_of_n1_0 (w : Word) (h : Word.n1 w = 0x0#4) : Word.fixedBits w = w := by
  rw [Word.fixedBits, h]; exact BitVec.and_allOnes

theorem Word.n_fixedBits (w : Word) (h : Word.n1 w = 0x5#4 ∨ Word.n1 w = 0x8#4 ∨ Word.n1 w = 0x9#4) :
    Word.n (Word.fixedBits w) = Word.n w := by
  have hm : Word.n (formatMask (Word.n1 w)) = BitVec.allOnes 4 := by rcases h with hn | hn | hn <;> rw [hn] <;> rfl
  rw [Word.fixedBits, Word.n_and, hm, BitVec.and_allOnes]

theorem Word.kk_fixedBits (w : Word) (h : Word.n1 w = 0xE#4 ∨ Word.n1 w = 0xF#4) :
    Word.kk (Word.fixedBits w) = Word.kk w := by
  have hm : Word.kk (formatMask (Word.n1 w)) = BitVec.allOnes 8 := by rcases h with hn | hn <;> rw [hn] <;> rfl
  rw [Word.fixedBits, Word.kk_and, hm, BitVec.and_allOnes]

/-- An illegal word stays illegal with its operand fields cleared: the decoder rejects no word for an operand. -/
theorem decode_fixedBits_eq_none (w : Word) (h : decode w = none) : decode (Word.fixedBits w) = none := by
  rw [decode_eq_none_iff] at h ⊢
  rw [Word.n1_fixedBits]
  rcases h with h | ⟨hn, h⟩ | ⟨hn, h⟩ | ⟨hn, h⟩ | ⟨hn, h⟩
  · rw [Word.fixedBits_of_n1_0 w h.1]; exact .inl h
  · rw [Word.n_fixedBits w (hn.imp_right .inr)]; exact .inr (.inl ⟨hn, h⟩)
  · rw [Word.n_fixedBits w (.inr (.inl hn))]; exact .inr (.inr (.inl ⟨hn, h⟩))
  · rw [Word.kk_fixedBits w (.inl hn)]; exact .inr (.inr (.inr (.inl ⟨hn, h⟩)))
  · rw [Word.kk_fixedBits w (.inr hn)]; exact .inr (.inr (.inr (.inr ⟨hn, h⟩)))

/-! ### The rows that cover a word -/

theorem opcodeMap_patterns_nodup : (opcodeMap.map OpRow.pattern).Nodup := by decide

/-- Row by row: the mask is that of the format, and the row's word with every operand 0 is legal. -/
theorem opcodeMap_mask_and_legal : ∀ r ∈ opcodeMap,
    r.mask = formatMask (Word.n1 r.pattern) ∧ (decode r.pattern).isSome = true := by decide

theorem OpRow.covers_iff (r : OpRow) (hr : r ∈ opcodeMap) (w : Word) :
    r.covers w = true ↔ r.pattern = Word.fixedBits w := by
  have hmask : r.mask = formatMask (Word.n1 r.pattern) := (opcodeMap_mask_and_legal r hr).1
  rw [OpRow.covers, beq_iff_eq]
  constructor
  · intro h
    have hn : Word.n1 r.pattern = Word.n1 w := by
      rw [← congrArg Word.n1 h, Word.n1_and, hmask, n1_formatMask, BitVec.and_allOnes]
    rw [← h, hmask, hn, Word.fixedBits]
  · intro h
    have hn : Word.n1 r.pattern = Word.n1 w := by rw [h, Word.n1_fixedBits]
    rw [hmask, hn, h, Word.fixedBits]

theorem length_filter_covers (w : Word) :
    (opcodeMap.filter fun r => r.covers w).length = (opcodeMap.map OpRow.pattern).count (Word.fixedBits w) := by
  rw [List.count, List.countP_map, List.countP_eq_length_filter]
  refine congrArg List.length (List.filter_congr fun r hr => ?_)
  rw [Bool.eq_iff_iff, OpRow.covers_iff r hr w, Function.comp_apply, beq_iff_eq]

/-- No word matches two rows. -/
theorem length_filter_covers_le_one (w : Word) : (opcodeMap.filter fun r => r.covers w).length ≤ 1 := by
  rw [length_filter_covers]
  exact List.nodup_iff_count_le_one.mp opcodeMap_patterns_nodup _

theorem wordLegal_iff (w : Word) : wordLegal w = true ↔ ∃ r ∈ opcodeMap, r.covers w = true := by
  have hle := length_filter_covers_le_one w
  have hpos : 0 < (opcodeMap.filter fun r => r.covers w).length ↔ ∃ r ∈ opcodeMap, r.covers w = true :=
    List.length_filter_pos_iff
  rw [wordLegal, beq_iff_eq, ← hpos]
  omega

/-! ### Decoded words and covered words -/

open Laws.MatchesItsRow in
/-- The word of every instruction matches the row it is listed under (R93). -/
theorem encode_matches_row : (i : Instr) → Laws.MatchesItsRow.Statement i
  | .nop => nop
  | .cls => cls
  | .ret => ret
  | .jp nnn => jp nnn
  | .call nnn => call nnn
  | .seByte x kk => seByte x kk
  | .sneByte x kk => sneByte x kk
  | .seReg x y => seReg x y
  | .ldByte x kk => ldByte x kk
  | .addByte x kk => addByte x kk
  | .ldReg x y => ldReg x y
  | .orReg x y => orReg x y
  | .andReg x y => andReg x y
  | .xorReg x y => xorReg x y
  | .addReg x y => addReg x y
  | .sub x y => sub x y
  | .shr x y => shr x y
  | .subn x y => subn x y
  | .shl x y => shl x y
  | .sneReg x y => sneReg x y
  | .ldI nnn => ldI nnn
  | .jpV0 nnn => jpV0 nnn
  | .rnd x kk => rnd x kk
  | .drw x y n => drw x y n
  | .skp x => skp x
  | .sknp x => sknp x
  | .ldVxDT x => ldVxDT x
  | .ldVxK x => ldVxK x
  | .ldDT x => ldDT x
  | .ldST x => ldST x
  | .addI x => addI x
  | .ldF x => ldF x
  | .ldB x => ldB x
  | .ldStore x => ldStore x
  | .ldLoad x => ldLoad x

theorem row_covers_of_decode (w : Word) (i : Instr) (h : decode w = some i) :
    ∃ r, opcodeMap[i.row]? = some r ∧ r.covers w = true :=
  encode_of_decode w i h ▸ encode_matches_row i

theorem isSome_decode_of_covers (w : Word) (r : OpRow) (hr : r ∈ opcodeMap) (h : r.covers w = true) :
    (decode w).isSome = true := by
  have hp : (decode r.pattern).isSome = true := (opcodeMap_mask_and_legal r hr).2
  rw [(OpRow.covers_iff r hr w).mp h, Option.isSome_iff_ne_none] at hp
  exact Option.isSome_iff_ne_none.mpr fun hd => hp (decode_fixedBits_eq_none w hd)

theorem isSome_decode_eq_wordLegal (w : Word) : (decode w).isSome = wordLegal w := by
  rw [Bool.eq_iff_iff, wordLegal_iff]
  constructor
  · intro h
    obtain ⟨i, hi⟩ := Option.isSome_iff_exists.mp h
    obtain ⟨r, hr, hc⟩ := row_covers_of_decode w i hi
    exact ⟨r, List.mem_of_getElem? hr, hc⟩
  · rintro ⟨r, hr, hc⟩
    exact isSome_decode_of_covers w r hr hc

/-- Settles O3: the decoder and the opcode map agree, both by way of the word's fixed bits. -/
theorem decoderAcceptsExactlyTheOpcodeMap : Obligations.DecoderAcceptsExactlyTheOpcodeMap :=
  ⟨rfl, fun w => ⟨length_filter_covers_le_one w, isSome_decode_eq_wordLegal w, row_covers_of_decode w⟩⟩

end Sys2Proof
end

section
/-! PROOFS, family 40_step_cycle. O7, O10 and O49: the random input of a step, what a failed step leaves, and which error a step
returns. -/

namespace Sys2Proof.Machine

/-! ### Only RND reads the random input (R123) -/

theorem execWith_eq_exec (rnd : Byte) (i : Instr) (s : State) (h : ∀ x kk, i ≠ .rnd x kk) : execWith rnd i s = exec i s := by
  cases i with
  | rnd x kk => exact absurd rfl (h x kk)
  | _ => rfl

/-! ### The error table, one equation for each side of a condition (R240) -/

theorem rangeError_of_inside (s : State) (a : Nat) (h : a < 4096) : rangeError s a = none := if_neg (Nat.not_le.mpr h)
theorem rangeError_of_outside (s : State) (a : Nat) (h : 4096 ≤ a) : rangeError s a = some (.addressRange a s.PC) := if_pos h

theorem keyOperandError_of_key (s : State) (x : Reg) (h : (s.getV x).toNat < 16) : keyOperandError s x = none :=
  if_neg (Nat.not_le.mpr h)
theorem keyOperandError_of_no_key (s : State) (x : Reg) (h : 16 ≤ (s.getV x).toNat) :
    keyOperandError s x = some (.keyRange (s.getV x) s.PC) := if_pos h

/-- A sprite of no bytes reads no address, so its range is not checked (R201). -/
theorem ownCheck_drw_of_inside (x y : Reg) (n : Nibble) (s : State) (h : n.toNat = 0 ∨ s.I.toNat + n.toNat - 1 < 4096) :
    ownCheck (.drw x y n) s = none :=
  ite_eq_left_iff.mpr fun h0 => rangeError_of_inside s _ (h.resolve_left h0)
theorem ownCheck_drw_of_outside (x y : Reg) (n : Nibble) (s : State) (h0 : n.toNat ≠ 0)
    (h : 4096 ≤ s.I.toNat + n.toNat - 1) :
    ownCheck (.drw x y n) s = some (.addressRange (s.I.toNat + n.toNat - 1) s.PC) :=
  (if_neg h0).trans (rangeError_of_outside s _ h)

/-! ### An instruction returns what its own check says -/

theorem execWith_err (rnd : Byte) (i : Instr) (s : State) : ∃ t, execWith rnd i s = .next t ∧ t.err = ownCheck i s := by
  cases i with
  | ret =>
    by_cases h : s.SP.val = 0
    · exact ⟨_, exec_ret_of_empty s h, (if_pos h).symm⟩
    · exact ⟨_, exec_ret_of_pos s (Nat.pos_of_ne_zero h), (if_neg h).symm⟩
  | call nnn =>
    by_cases h : s.SP.val = 16
    · exact ⟨_, exec_call_of_full nnn s h, (if_pos h).symm⟩
    · exact ⟨_, exec_call_of_room nnn s (by omega), (if_neg h).symm⟩
  | drw x y n =>
    by_cases h : n.toNat = 0 ∨ s.I.toNat + n.toNat - 1 < 4096
    · exact ⟨_, exec_drw_of_inside x y n s h, (ownCheck_drw_of_inside x y n s h).symm⟩
    · obtain ⟨h0, hout⟩ := not_or.mp h
      have hle := Nat.le_of_not_lt hout
      exact ⟨_, exec_drw_of_outside x y n s (Nat.pos_of_ne_zero h0) hle, (ownCheck_drw_of_outside x y n s h0 hle).symm⟩
  | ldB x =>
    rcases Nat.lt_or_ge (s.I.toNat + 2) 4096 with h | h
    · exact ⟨_, exec_ldB_of_inside x s h, (rangeError_of_inside s _ h).symm⟩
    · exact ⟨_, exec_ldB_of_outside x s h, (rangeError_of_outside s _ h).symm⟩
  | ldStore x =>
    rcases Nat.lt_or_ge (s.I.toNat + x.toNat) 4096 with h | h
    · exact ⟨_, exec_ldStore_of_inside x s h, (rangeError_of_inside s _ h).symm⟩
    · exact ⟨_, exec_ldStore_of_outside x s h, (rangeError_of_outside s _ h).symm⟩
  | ldLoad x =>
    rcases Nat.lt_or_ge (s.I.toNat + x.toNat) 4096 with h | h
    · exact ⟨_, exec_ldLoad_of_inside x s h, (rangeError_of_inside s _ h).symm⟩
    · exact ⟨_, exec_ldLoad_of_outside x s h, (rangeError_of_outside s _ h).symm⟩
  | skp x =>
    rcases Nat.lt_or_ge (s.getV x).toNat 16 with h | h
    · exact ⟨_, exec_skp_of_key x s h, (State.skipIf_err ..).trans (keyOperandError_of_key s x h).symm⟩
    · exact ⟨_, exec_skp_of_no_key x s h, (keyOperandError_of_no_key s x h).symm⟩
  | sknp x =>
    rcases Nat.lt_or_ge (s.getV x).toNat 16 with h | h
    · exact ⟨_, exec_sknp_of_key x s h, (State.skipIf_err ..).trans (keyOperandError_of_key s x h).symm⟩
    · exact ⟨_, exec_sknp_of_no_key x s h, (keyOperandError_of_no_key s x h).symm⟩
  | seByte | sneByte | seReg | sneReg => exact ⟨_, rfl, State.skipIf_err ..⟩
  | ldVxK x =>
    cases h : s.lowestKey with
    | some k => exact ⟨_, exec_ldVxK_of_pressed x s k h, rfl⟩
    | none => exact ⟨_, exec_ldVxK_of_none x s h, rfl⟩
  | _ => exact ⟨_, rfl, rfl⟩

/-- An instruction whose check raises changes nothing but FAULT; one whose check does not leaves FAULT as it is (R121). -/
theorem execWith_ownCheck (rnd : Byte) (i : Instr) (s : State) : ∃ t, execWith rnd i s = .next t ∧ t.err = ownCheck i s ∧
    (ownCheck i s = none → t.FAULT = s.FAULT) ∧ (ownCheck i s ≠ none → OnlyErrorRecorded s t) := by
  obtain ⟨t, ht, herr⟩ := execWith_err rnd i s
  refine ⟨t, ht, herr, ?_⟩
  rw [← herr]
  obtain ⟨t', ht', ⟨hok, hFAULT, -⟩ | ⟨e, rfl, -⟩⟩ := execWith_cases rnd i s <;> rw [ht] at ht' <;> cases ht'
  · exact ⟨fun _ => hFAULT, fun hne => absurd hok hne⟩
  · exact ⟨nofun, fun _ => raise_only s _ e⟩

/-! ### A step returns the first error in the order of R245 -/

theorem stepError_of_fault (s : State) (f : FaultRecord) (hF : s.FAULT = some f) : stepError s = some (.recorded f) := by
  simp [stepError, hF]
theorem stepError_of_no_fetch (s : State) (hF : s.FAULT = none) (hw : fetch s = none) :
    stepError s = some (.addressRange s.PC.toNat s.PC) := by
  simp [stepError, hF, hw]
theorem stepError_of_illegal (s : State) (w : Word) (hF : s.FAULT = none) (hw : fetch s = some w) (hd : decode w = none) :
    stepError s = some (.unimplementedOpcode w s.PC) := by
  simp [stepError, hF, hw, hd]
theorem stepError_of_decoded (s : State) (w : Word) (i : Instr) (hF : s.FAULT = none) (hw : fetch s = some w)
    (hd : decode w = some i) : stepError s = ownCheck i s := by
  simp [stepError, hF, hw, hd]

theorem stepWith_err (rnd : Byte) (s : State) : ∃ t, stepWith rnd s = .next t ∧ t.err = stepError s := by
  rcases front_cases s with ⟨f, hF, hf⟩ | ⟨hF, hw, hf⟩ | ⟨w, hF, hw, hd, hf⟩ | ⟨w, i, hF, hw, hd, hf⟩
  · exact ⟨_, stepWith_of_taken rnd s _ hf, (stepError_of_fault s f hF).symm⟩
  · exact ⟨_, stepWith_of_taken rnd s _ hf, (stepError_of_no_fetch s hF hw).symm⟩
  · exact ⟨_, stepWith_of_taken rnd s _ hf, (stepError_of_illegal s w hF hw hd).symm⟩
  · rw [stepWith_of_run rnd s i hf, stepError_of_decoded s w i hF hw hd]
    exact execWith_err rnd i s

/-! ### A host operation replies the error of its row -/

theorem load_code (s : State) (data : List Byte) :
    (orUnchanged s (load s data)).2.code = HostOp.errorCode (.load data) s := by
  rcases Nat.lt_or_ge 4096 (512 + data.length) with h | h
  · rw [load_of_too_long s data h]; exact (if_pos h).symm
  · rw [load_of_fits s data h]; exact (if_neg (Nat.not_lt.mpr h)).symm

theorem setKey_code (s : State) (index : Nat) (pressed : Bool) :
    (orUnchanged s (setKey s index pressed)).2.code = HostOp.errorCode (.setKey index pressed) s := by
  rcases Nat.lt_or_ge index 16 with h | h
  · rw [setKey_of_lt s index pressed h]; exact (if_neg (Nat.not_le.mpr h)).symm
  · rw [setKey_of_ge s index pressed h]; exact (if_pos h).symm

theorem HostOp.apply_step (rnd : Byte) (s t : State) (h : stepWith rnd s = .next t) :
    (HostOp.step rnd).apply s = .next (t, stepReply t) := by
  simp only [HostOp.apply, h]

theorem HostOp.apply_code (op : HostOp) (s : State) : ∃ t r, op.apply s = .next (t, r) ∧ r.code = op.errorCode s := by
  cases op with
  | load data => exact ⟨_, _, rfl, load_code s data⟩
  | setKey index pressed => exact ⟨_, _, rfl, setKey_code s index pressed⟩
  | step rnd =>
    obtain ⟨t, ht, herr⟩ := stepWith_err rnd s
    exact ⟨t, _, HostOp.apply_step rnd s t ht, (code_stepReply t).trans (congrArg (Option.map StepErr.code) herr)⟩
  | reset | tickTimers | framebuffer | readTimers | inspect => exact ⟨_, _, rfl, rfl⟩

/-! ### The statements -/

/-- Settles O10, along the three ends of a step: the record returned, an error taken, the instruction completed. -/
theorem failedStepChangesOnlyFault : Obligations.FailedStepChangesOnlyFault := by
  intro s rnd
  obtain ⟨t, ht, -⟩ := stepWith_err rnd s
  refine ⟨t, ht, ?_⟩
  rcases stepWith_cases rnd s t ht with ⟨f, hF, rfl⟩ | ⟨hF, e, rfl, -, -⟩ | ⟨hF, i, -, hx, hok⟩
  · exact ⟨fun _ _ => ⟨rfl, fun _ hnone => (nomatch hF.symm.trans hnone), fun _ => rfl⟩, nofun⟩
  · refine ⟨?_, nofun⟩
    rintro _ ⟨⟩
    exact ⟨raise_only s _ e, fun hfatal _ => raise_of_fatal s _ e hfatal,
      fun h => raise_of_recoverable s _ e (h.resolve_right (not_not.mpr hF))⟩
  · exact ⟨fun _ he => (nomatch hok.symm.trans he), fun _ => ⟨hF, (execWith_strictFrame rnd i s t hx hok).FAULT.trans hF⟩⟩

/-- Settles O49: the machine's `exec` and `step` are those with a given random input, at the next free draw. -/
theorem operationsFailExactlyAsTheErrorTableSays : Obligations.OperationsFailExactlyAsTheErrorTableSays := by
  refine ⟨rfl, fun i s => ?_, fun s => ?_, HostOp.apply_code⟩
  · rw [exec_eq_execWith]; exact execWith_ownCheck _ i s
  · rw [step_eq_stepWith]; exact stepWith_err _ s

/-- Settles O7. -/
theorem stepIsStepWithTheNextDraw : Obligations.StepIsStepWithTheNextDraw :=
  ⟨step_eq_stepWith, fun s i r r' h => (execWith_eq_exec r i s h).trans (execWith_eq_exec r' i s h).symm⟩

end Sys2Proof.Machine
end

section
/-! PROOFS, family 41_control_flow. O14 to O21: the words NOP, RET, the jumps, CALL and the skips decode from, and
what each leaves. -/

namespace Sys2Proof

/-- The four nibbles of format XYN, put side by side one at a time (R92). -/
theorem append_nibbles_eq_encodeXYN (a x y n : Nibble) : a ++ x ++ y ++ n = encodeXYN a x y n := by
  apply BitVec.eq_of_toNat_eq
  rw [toNat_encodeXYN, toNat_append_fields, toNat_append_fields, toNat_append_fields]
  omega

end Sys2Proof

namespace Sys2Proof.Machine

/-! ### The skips (R141) -/

/-- A skip decided by `p` leaves PC = p + 4 or p + 2, with Ok and nothing else written. -/
theorem advance_skipIf {c : Bool} {p : Prop} [Decidable p] (s : State) (h : c = true ↔ p) :
    (s.advance.skipIf c).err = none ∧ (s.advance.skipIf c).PC = (if p then s.PC + 4#16 else s.PC + 2#16) ∧
      ({} : Writes).Frame s (s.advance.skipIf c) := by
  refine ⟨State.skipIf_err .., ?_, ((Writes.StrictFrame.advance {} s).skipIf c).toFrame⟩
  rw [State.skipIf_PC, State.advance_PC, BitVec.add_assoc]
  exact if_congr h rfl rfl

/-- Settles O19. -/
theorem skipsOnByteOperand : Obligations.SkipsOnByteOperand := fun x kk s =>
  ⟨decode_encode (.seByte x kk), decode_encode (.sneByte x kk),
    ⟨_, rfl, advance_skipIf s beq_iff_eq⟩, ⟨_, rfl, advance_skipIf s bne_iff_ne⟩⟩

/-- Settles O20: groups 5 and 9 of the decoder read the last nibble. -/
theorem skipsOnRegisterOperand : Obligations.SkipsOnRegisterOperand := by
  intro x y s
  have h5 (n : Nibble) := (congrArg decode (append_nibbles_eq_encodeXYN 0x5#4 x y n)).trans (decode_encodeXYN_5 x y n)
  have h9 (n : Nibble) := (congrArg decode (append_nibbles_eq_encodeXYN 0x9#4 x y n)).trans (decode_encodeXYN_9 x y n)
  exact ⟨h5 0x0#4, h9 0x0#4, fun n hn => ⟨(h5 n).trans (if_neg hn), (h9 n).trans (if_neg hn)⟩,
    ⟨_, rfl, advance_skipIf s beq_iff_eq⟩, ⟨_, rfl, advance_skipIf s bne_iff_ne⟩⟩

/-! ### NOP and the jumps -/

/-- Settles O14. -/
theorem nopOnlyAdvancesPc : Obligations.NopOnlyAdvancesPc :=
  ⟨rfl, fun s => ⟨_, rfl, rfl, rfl, (Writes.StrictFrame.advance {} s).toFrame⟩⟩

/-- A jump writes PC alone. -/
theorem frame_advance_setPC (s : State) (v : Word) : ({} : Writes).Frame s (s.advance.setPC v) :=
  ((Writes.StrictFrame.advance {} s).setPC v).toFrame

/-- Settles O16. -/
theorem jpSetsPc : Obligations.JpSetsPc := fun nnn s =>
  ⟨decode_encode (.jp nnn), _, rfl, rfl, addrWord_toNat nnn, frame_advance_setPC s _⟩

/-- The largest sum, 0xFFF + 0xFF, is below 2 ^ 16, so JP V0 does not wrap (R149). -/
theorem toNat_addrWord_add_byteWord (nnn : Addr) (v : Byte) : (addrWord nnn + byteWord v).toNat = nnn.toNat + v.toNat := by
  rw [BitVec.toNat_add, addrWord_toNat, byteWord_toNat]
  omega

/-- Settles O21. -/
theorem jpV0AddsV0Unmasked : Obligations.JpV0AddsV0Unmasked := by
  intro nnn s
  have hsum := toNat_addrWord_add_byteWord nnn (s.getV 0x0#4)
  have hle : (addrWord nnn + byteWord (s.getV 0x0#4)).toNat ≤ 0x10FE := by omega
  exact ⟨decode_encode (.jpV0 nnn), _, rfl, rfl, hsum, hle, frame_advance_setPC s _⟩

/-! ### The stack (R24, R25) -/

theorem stack_getElem?_top (s : State) : s.stack[s.SP.val - 1]? = some s.top := Vector.getElem?_eq_getElem _

/-- Settles O15. -/
theorem retPopsTheStack : Obligations.RetPopsTheStack := by
  refine ⟨rfl, fun s hpos => ?_, fun s hempty => ?_⟩
  · have hframe := ((Writes.StrictFrame.advance { stack := true } s).pop rfl).setPC s.top
    exact ⟨_, exec_ret_of_pos s hpos, rfl, rfl, stack_getElem?_top s, rfl, hframe.toFrame⟩
  · exact ⟨_, exec_ret_of_empty s hempty, raise_only s _ _, raise_of_recoverable s _ _ rfl, rfl⟩

theorem push_SP_val (s : State) (v : Word) (h : s.SP.val < 16) : (s.push v).SP.val = s.SP.val + 1 := Nat.min_eq_left h

/-- Settles O17. -/
theorem callPushesTheReturnAddress : Obligations.CallPushesTheReturnAddress := by
  intro nnn s
  refine ⟨decode_encode (.call nnn), fun hroom => ?_, fun hfull => ?_⟩
  · have hframe := ((Writes.StrictFrame.advance { stack := true } s).push s.advance.PC rfl).setPC (addrWord nnn)
    exact ⟨_, exec_call_of_room nnn s hroom, rfl, Vector.getElem?_setIfInBounds_self_of_lt hroom,
      fun j hj => Vector.getElem?_setIfInBounds_ne hj.symm, push_SP_val s.advance s.advance.PC hroom,
      addrWord_toNat nnn, hframe.toFrame⟩
  · exact ⟨_, exec_call_of_full nnn s hfull, raise_only s _ _, raise_of_recoverable s _ _ rfl, rfl⟩

/-- What a pop reads after a push is what was pushed. -/
theorem top_push (s : State) (v : Word) (h : s.SP.val < 16) : (s.push v).top = v := by
  have htop := stack_getElem?_top (s.push v)
  rw [push_SP_val s v h, Nat.add_sub_cancel, State.push_stack, Vector.getElem?_setIfInBounds_self_of_lt h] at htop
  exact (Option.some.inj htop).symm

/-- A pop undoes a push's step of the pointer. -/
theorem pop_push_SP (s : State) (v : Word) (h : s.SP.val < 16) : (s.push v).pop.SP = s.SP := by
  have hval : (s.push v).SP.val - 1 = s.SP.val := by rw [push_SP_val s v h, Nat.add_sub_cancel]
  exact Fin.ext hval

/-- Settles O18: the RET pops what the CALL pushed. -/
theorem retAfterCallReturnsBehindTheCall : Obligations.RetAfterCallReturnsBehindTheCall := by
  intro nnn s hroom
  have hpos : 0 < (s.advance.push s.advance.PC).SP.val := (push_SP_val s.advance s.advance.PC hroom).symm ▸ Nat.succ_pos _
  exact ⟨_, _, exec_call_of_room nnn s hroom, exec_ret_of_pos _ hpos, rfl, rfl, top_push s.advance s.advance.PC hroom,
    pop_push_SP s.advance s.advance.PC hroom, rfl, rfl, rfl, rfl⟩

end Sys2Proof.Machine
end

section
/-! PROOFS, family 41_control_flow. O55: a jump to itself and a wait with no key end where they began. -/

namespace Sys2Proof.Machine

/-- A step of a machine that is not faulted, at an instruction's word, executes that instruction. -/
theorem stepWith_of_fetch_encode (rnd : Byte) (s : State) (i : Instr) (hF : s.FAULT = none) (hw : fetch s = some (encode i)) :
    stepWith rnd s = execWith rnd i s :=
  stepWith_of_run rnd s i (front_of_decoded s _ i hF hw (decode_encode i))

/-- An instruction whose only write puts PC back to p leaves the state as it was, with Ok. -/
theorem advance_setPC_self (s : State) : s.advance.setPC s.PC = { s with err := none } := rfl

theorem exec_jp_self (nnn : Addr) (s : State) (h : nnn.toNat = s.PC.toNat) : exec (.jp nnn) s = .next { s with err := none } := by
  have hPC : addrWord nnn = s.PC := BitVec.eq_of_toNat_eq ((addrWord_toNat nnn).trans h)
  calc exec (.jp nnn) s = .next (s.advance.setPC (addrWord nnn)) := rfl
    _ = .next { s with err := none } := by rw [hPC, advance_setPC_self]

theorem exec_ldVxK_waiting (x : Reg) (s : State) (h : ∀ k : Fin 16, s.key[k.val] = false) :
    exec (.ldVxK x) s = .next { s with err := none } := by
  rw [exec_ldVxK_of_none x s (lowestKey_eq_none s h), State.advance_PC, BitVec.add_sub_cancel, advance_setPC_self]

/-- Settles O55. -/
theorem parkedAndWaitingStatesStay : Obligations.ParkedAndWaitingStatesStay := by
  rintro s rnd (⟨hF, nnn, hw, hPC⟩ | ⟨hF, ⟨x, hw⟩, hkeys⟩)
  · rw [stepWith_of_fetch_encode rnd s _ hF hw]; exact exec_jp_self nnn s hPC
  · rw [stepWith_of_fetch_encode rnd s _ hF hw]; exact exec_ldVxK_waiting x s hkeys

end Sys2Proof.Machine
end

section
/-! PROOFS, family 42_alu. O22 to O29: the words the operations on V registers decode from, and what each leaves. -/

namespace Sys2Proof

/-- A word of group 8, written out nibble by nibble, is decoded by its last nibble (R95). -/
theorem decode_append_nibbles_8 (x y n : Nibble) : decode (0x8#4 ++ x ++ y ++ n) = decodeGroup8 x y n :=
  (congrArg decode (append_nibbles_eq_encodeXYN 0x8#4 x y n)).trans (decode_encodeXYN_8 x y n)

end Sys2Proof

namespace Sys2Proof.Machine

/-! ### The flag computations on naturals (R150, R168, R170) -/

theorem flagByte_eq_ite {b : Bool} {p : Prop} [Decidable p] (h : b = true ↔ p) :
    flagByte b = if p then 1#8 else 0#8 := if_congr h rfl rfl

theorem toNat_overflowingAdd (a b : Byte) : (overflowingAdd a b).1.toNat = (a.toNat + b.toNat) % 256 :=
  BitVec.toNat_ofNat ..

theorem overflowingAdd_carry_iff (a b : Byte) : (overflowingAdd a b).2 = true ↔ a.toNat + b.toNat > 255 := decide_eq_true_iff

/-- The 256 the model adds keeps the difference of naturals from being cut off at 0. -/
theorem toNat_overflowingSub (a b : Byte) : ((overflowingSub a b).1.toNat : Int) = ((a.toNat : Int) - b.toNat) % 256 := by
  have hb : b.toNat < 256 := b.isLt
  simp only [overflowingSub, BitVec.toNat_ofNat]
  omega

theorem overflowingSub_borrow_iff (a b : Byte) : (overflowingSub a b).2 = true ↔ a.toNat < b.toNat := decide_eq_true_iff

theorem overflowingSub_noBorrow_iff (a b : Byte) : (!(overflowingSub a b).2) = true ↔ a.toNat ≥ b.toNat := by
  rw [Bool.not_eq_true', ← Bool.not_eq_true, overflowingSub_borrow_iff, not_lt]

theorem toNat_shiftRight_one (v : Byte) : (v >>> 1).toNat = v.toNat / 2 := by
  rw [BitVec.toNat_ushiftRight, Nat.shiftRight_eq_div_pow, pow_one]

theorem toNat_shiftLeft_one (v : Byte) : (v <<< 1).toNat = v.toNat * 2 % 256 := by
  rw [BitVec.toNat_shiftLeft, Nat.shiftLeft_eq, pow_one]

theorem toNat_lsbOut (v : Byte) : (lsbOut v).toNat = v.toNat % 2 := Nat.and_one_is_mod v.toNat

theorem toNat_msbOut (v : Byte) : (msbOut v).toNat = v.toNat / 128 := by
  have hv : v.toNat < 256 := v.isLt
  have hbit : (msbOut v).toNat = (v >>> 7).toNat % 2 := toNat_lsbOut (v >>> 7)
  rw [hbit, BitVec.toNat_ushiftRight, Nat.shiftRight_eq_div_pow]
  omega

/-- Halving a single bit leaves 0: what `8Fy6` leaves in VF under SEQUENTIAL (R168). -/
theorem toNat_lsbOut_shiftRight_one (v : Byte) : (lsbOut v >>> 1).toNat = 0 := by
  rw [toNat_shiftRight_one, toNat_lsbOut]
  omega

/-- Doubling a single bit wraps nothing: what `8FyE` leaves in VF under SEQUENTIAL (R170). -/
theorem toNat_msbOut_shiftLeft_one (v : Byte) : (msbOut v <<< 1).toNat = 2 * (v.toNat / 128) := by
  have hv : v.toNat < 256 := v.isLt
  rw [toNat_shiftLeft_one, toNat_msbOut]
  omega

/-! ### One result in Vx: the loads, ADD Vx, byte, the logic and RND (R160 to R165, R171) -/

/-- One register write leaves every other register and element as it was. -/
theorem frame_advance_setV (x : Reg) (v : Byte) (s : State) : ({ regs := [x] } : Writes).Frame s (s.advance.setV x v) :=
  ((Writes.StrictFrame.advance { regs := [x] } s).setV x v (.head _)).toFrame

/-- Settles O22. -/
theorem loadAndAddByte : Obligations.LoadAndAddByte := by
  intro x kk s
  have hsum : ((s.advance.setV x (overflowingAdd (s.getV x) kk).1).getV x).toNat = ((s.getV x).toNat + kk.toNat) % 256 := by
    rw [State.getV_setV_self, toNat_overflowingAdd]
  exact ⟨decode_encode (.ldByte x kk), decode_encode (.addByte x kk),
    ⟨_, rfl, rfl, rfl, State.getV_setV_self .., frame_advance_setV x _ s⟩,
    ⟨_, rfl, rfl, rfl, hsum, frame_advance_setV x _ s⟩⟩

/-- Settles O23. -/
theorem registerCopyAndLogic : Obligations.RegisterCopyAndLogic := by
  intro x y s
  have hV (v : Byte) : (s.advance.setV x v).getV x = v := State.getV_setV_self ..
  have hd := decode_append_nibbles_8 x y
  exact ⟨hd 0x0#4, hd 0x1#4, hd 0x2#4, hd 0x3#4,
    ⟨_, rfl, rfl, rfl, hV _, frame_advance_setV x _ s⟩,
    ⟨_, rfl, rfl, rfl, fun b => by rw [hV, BitVec.getLsbD_or], frame_advance_setV x _ s⟩,
    ⟨_, rfl, rfl, rfl, fun b => by rw [hV, BitVec.getLsbD_and], frame_advance_setV x _ s⟩,
    ⟨_, rfl, rfl, rfl, fun b => by rw [hV, BitVec.getLsbD_xor], frame_advance_setV x _ s⟩⟩

/-- RND, whatever its random input, writes Vx and counts the draw. -/
theorem frame_advance_setV_countDraw (x : Reg) (v : Byte) (s : State) :
    ({ regs := [x], draws := true } : Writes).Frame s (s.advance.setV x v).countDraw :=
  (((Writes.StrictFrame.advance { regs := [x], draws := true } s).setV x v (.head _)).countDraw rfl).toFrame

/-- Settles O29. -/
theorem rndMasksTheDraw : Obligations.RndMasksTheDraw := fun x kk s =>
  ⟨decode_encode (.rnd x kk),
    fun _ => ⟨_, rfl, rfl, rfl, State.getV_setV_self .., frame_advance_setV_countDraw x _ s⟩,
    ⟨_, rfl, rfl, rfl, State.getV_setV_self .., rfl, frame_advance_setV_countDraw x _ s⟩⟩

/-! ### A result in Vx, then a flag in VF: ADD, SUB and SUBN (R166, R167, R169) -/

/-- The flag is `p`, and wins in VF; the result stands in Vx when x is not 0xF. -/
theorem advance_setResultThenFlag {f : Bool} {p : Prop} [Decidable p] (x : Reg) (v : Byte) (s : State) (h : f = true ↔ p) :
    (s.advance.setResultThenFlag x v f).getV vF = (if p then 1#8 else 0#8) ∧
      (x ≠ vF → (s.advance.setResultThenFlag x v f).getV x = v) ∧
      ({ regs := [x, vF] } : Writes).Frame s (s.advance.setResultThenFlag x v f) := by
  have hframe := (Writes.StrictFrame.advance { regs := [x, vF] } s).setResultThenFlag x v f (.head _) (.tail _ (.head _))
  refine ⟨?_, fun hx => ?_, hframe.toFrame⟩
  · rw [State.getV_setResultThenFlag, if_pos rfl, flagByte_eq_ite h]
  · rw [State.getV_setResultThenFlag, if_neg hx, if_pos rfl]

/-- Settles O24. -/
theorem addRegistersSetsCarry : Obligations.AddRegistersSetsCarry := by
  intro x y s
  obtain ⟨hflag, hresult, hframe⟩ := advance_setResultThenFlag x (overflowingAdd (s.getV x) (s.getV y)).1 s
    (overflowingAdd_carry_iff (s.getV x) (s.getV y))
  exact ⟨decode_append_nibbles_8 x y 0x4#4, _, rfl, rfl, rfl, hflag,
    fun hx => by rw [hresult hx, toNat_overflowingAdd], hframe⟩

/-- Settles O25: the flag is the negated borrow of Vx - Vy. -/
theorem subSetsNoBorrow : Obligations.SubSetsNoBorrow := by
  intro x y s
  obtain ⟨hflag, hresult, hframe⟩ := advance_setResultThenFlag x (overflowingSub (s.getV x) (s.getV y)).1 s
    (overflowingSub_noBorrow_iff (s.getV x) (s.getV y))
  exact ⟨decode_append_nibbles_8 x y 0x5#4, _, rfl, rfl, rfl, hflag,
    fun hx => by rw [hresult hx, toNat_overflowingSub], hframe⟩

/-- Settles O26: the flag is the borrow of Vy - Vx itself. -/
theorem subnSetsBorrow : Obligations.SubnSetsBorrow := by
  intro x y s
  obtain ⟨hflag, hresult, hframe⟩ := advance_setResultThenFlag x (overflowingSub (s.getV y) (s.getV x)).1 s
    (overflowingSub_borrow_iff (s.getV y) (s.getV x))
  exact ⟨decode_append_nibbles_8 x y 0x7#4, _, rfl, rfl, rfl, hflag,
    fun hx => by rw [hresult hx, toNat_overflowingSub], hframe⟩

/-! ### The shifts, under either value of SHIFT_VF_ORDER (R151, R168, R170) -/

section

variable (order : ShiftVfOrder) (x : Reg) (bitOut shifted : Byte → Byte) (s : State)

/-- With Vx and VF two registers, the order of the two writes does not show. -/
theorem getV_shiftWith_of_ne (hx : x ≠ vF) : (shiftWith order x bitOut shifted s).getV x = shifted (s.getV x) ∧
    (shiftWith order x bitOut shifted s).getV vF = bitOut (s.getV x) := by
  cases order with
  | sequential | flagLast => simp [shiftWith, State.getV_setV, hx, hx.symm]

/-- SEQUENTIAL with x = 0xF: what is shifted is the bit VF has just received. -/
theorem getV_shiftWith_sequential_vF :
    (shiftWith .sequential vF bitOut shifted s).getV vF = shifted (bitOut (s.getV vF)) := by
  simp only [shiftWith, State.getV_setV_self]

/-- FLAG_LAST with x = 0xF: the bit shifted out is what VF ends with. -/
theorem getV_shiftWith_flagLast_vF : (shiftWith .flagLast vF bitOut shifted s).getV vF = bitOut (s.getV vF) :=
  State.getV_setV_self ..

/-- What a shift leaves, Vx and VF two registers or one. -/
theorem advance_shiftWith :
    (shiftWith order x bitOut shifted s.advance).err = none ∧
      (shiftWith order x bitOut shifted s.advance).PC = s.PC + 2#16 ∧
      (x ≠ vF → (shiftWith order x bitOut shifted s.advance).getV x = shifted (s.getV x) ∧
        (shiftWith order x bitOut shifted s.advance).getV vF = bitOut (s.getV x)) ∧
      (x = vF → order = .sequential →
        (shiftWith order x bitOut shifted s.advance).getV vF = shifted (bitOut (s.getV vF))) ∧
      (x = vF → order = .flagLast → (shiftWith order x bitOut shifted s.advance).getV vF = bitOut (s.getV vF)) ∧
      ({ regs := [x, vF] } : Writes).Frame s (shiftWith order x bitOut shifted s.advance) := by
  have hframe := (Writes.StrictFrame.advance { regs := [x, vF] } s).shiftWith order x bitOut shifted (.head _) (.tail _ (.head _))
  refine ⟨?_, ?_, getV_shiftWith_of_ne order x bitOut shifted s.advance, ?_, ?_, hframe.toFrame⟩
  · cases order with | sequential | flagLast => rfl
  · cases order with | sequential | flagLast => rfl
  · rintro rfl rfl; exact getV_shiftWith_sequential_vF bitOut shifted s.advance
  · rintro rfl rfl; exact getV_shiftWith_flagLast_vF bitOut shifted s.advance

end

/-- Settles O27. -/
theorem shrUnderEitherOrder : Obligations.ShrUnderEitherOrder := by
  intro x y s
  refine ⟨decode_append_nibbles_8 x y 0x6#4, ⟨_, rfl, rfl⟩, fun order => ⟨_, rfl, ?_⟩⟩
  obtain ⟨hok, hPC, hne, hseq, hlast, hframe⟩ := advance_shiftWith order x lsbOut (· >>> 1) s
  refine ⟨hok, hPC, fun hx => ?_, fun hx ho => ?_, fun hx ho => ?_, hframe⟩
  · obtain ⟨hVx, hVF⟩ := hne hx
    exact ⟨by rw [shrWith, hVx, toNat_shiftRight_one], by rw [shrWith, hVF, toNat_lsbOut]⟩
  · rw [shrWith, hseq hx ho, toNat_lsbOut_shiftRight_one]
  · rw [shrWith, hlast hx ho, toNat_lsbOut]

/-- Settles O28. -/
theorem shlUnderEitherOrder : Obligations.ShlUnderEitherOrder := by
  intro x y s
  refine ⟨decode_append_nibbles_8 x y 0xE#4, ⟨_, rfl, rfl⟩, fun order => ⟨_, rfl, ?_⟩⟩
  obtain ⟨hok, hPC, hne, hseq, hlast, hframe⟩ := advance_shiftWith order x msbOut (· <<< 1) s
  refine ⟨hok, hPC, fun hx => ?_, fun hx ho => ?_, fun hx ho => ?_, hframe⟩
  · obtain ⟨hVx, hVF⟩ := hne hx
    exact ⟨by rw [shlWith, hVx, toNat_shiftLeft_one], by rw [shlWith, hVF, toNat_msbOut]⟩
  · rw [shlWith, hseq hx ho, toNat_msbOut_shiftLeft_one]
  · rw [shlWith, hlast hx ho, toNat_msbOut]

end Sys2Proof.Machine
end

section
/-! PROOFS, family 43_index_memory. O30 to O33: the writes of I, the decimal digits, and the block store and load. -/

namespace Sys2Proof.Machine

/-- An instruction that returned Ok changed nothing outside its frame. -/
theorem frame_of_exec_ok {i : Instr} {s t : State} (h : exec i s = .next t) (hok : t.err = none) :
    (Instr.writes s i).Frame s t :=
  (execWith_strictFrame _ i s t ((exec_eq_execWith i s).symm.trans h) hok).toFrame

/-- The k-th of the written bytes stands at a + k (R65). -/
theorem Memory.read_writeBytes_inside (m : Memory) (a k : Nat) (bs : List Byte) (h : k < bs.length) :
    (m.writeBytes a bs).read (a + k) = bs[k] := by
  rw [Memory.read_writeBytes, if_pos (by omega), Nat.add_sub_cancel_left, List.getD_eq_getElem _ _ h]

/-! ### LD B: the decimal digits (R184) -/

/-- Every digit is below 10, so its byte holds it whole. -/
theorem toNat_bcdDigits (v : Byte) : (bcdDigits v)[0].toNat = v.toNat / 100 ∧
    (bcdDigits v)[1].toNat = v.toNat / 10 % 10 ∧ (bcdDigits v)[2].toNat = v.toNat % 10 := by
  have hv : v.toNat < 256 := v.isLt
  have hdigit (d : Nat) (hd : d < 10) : (BitVec.ofNat 8 d).toNat = d := by rw [BitVec.toNat_ofNat]; omega
  exact ⟨hdigit _ (by omega), hdigit _ (by omega), hdigit _ (by omega)⟩

/-- Settles O31: byte k of the three written is digit k. -/
theorem bcdStoresThreeDigits : Obligations.BcdStoresThreeDigits := by
  intro x s
  refine ⟨decode_encode (.ldB x), fun hin => ?_, fun hout => ?_⟩
  · have hexec := exec_ldB_of_inside x s hin
    have hread (k : Nat) (hk : k < 3) := s.mem.read_writeBytes_inside s.I.toNat k (bcdDigits (s.getV x)) hk
    obtain ⟨hhundreds, htens, hones⟩ := toNat_bcdDigits (s.getV x)
    exact ⟨_, hexec, rfl, rfl, (congrArg BitVec.toNat (hread 0 (by decide))).trans hhundreds,
      (congrArg BitVec.toNat (hread 1 (by decide))).trans htens,
      (congrArg BitVec.toNat (hread 2 (by decide))).trans hones, frame_of_exec_ok hexec rfl⟩
  · exact ⟨_, exec_ldB_of_outside x s hout, raise_only s _ _, raise_of_fatal s _ _ rfl, rfl⟩

/-! ### The block store and load (R185, R186) -/

/-- Settles O32. -/
theorem blockStoreWritesV0ToVx : Obligations.BlockStoreWritesV0ToVx := by
  intro x s
  refine ⟨decode_encode (.ldStore x), fun hin => ?_, fun hout => ?_⟩
  · have hexec := exec_ldStore_of_inside x s hin
    exact ⟨_, hexec, rfl, rfl, Memory.read_writeBytes_regsUpTo s.mem s s.I.toNat x, frame_of_exec_ok hexec rfl⟩
  · exact ⟨_, exec_ldStore_of_outside x s hout, raise_only s _ _, raise_of_fatal s _ _ rfl, rfl⟩

/-- Settles O33. -/
theorem blockLoadReadsV0ToVx : Obligations.BlockLoadReadsV0ToVx := by
  intro x s
  refine ⟨decode_encode (.ldLoad x), fun hin => ?_, fun hout => ?_⟩
  · have hexec := exec_ldLoad_of_inside x s hin
    have hload (k : Reg) (hk : k.toNat ≤ x.toNat) :
        (s.advance.setRegs (s.loadedRegs x)).getV k = s.mem.read (s.I.toNat + k.toNat) :=
      (State.getV_loadedRegs ..).trans (if_pos hk)
    exact ⟨_, hexec, rfl, rfl, hload, frame_of_exec_ok hexec rfl⟩
  · exact ⟨_, exec_ldLoad_of_outside x s hout, raise_only s _ _, raise_of_fatal s _ _ rfl, rfl⟩

/-! ### The writes of I (R180, R182, R183) -/

/-- Five times a byte is below 2 ^ 16, so LD F does not wrap (R183). -/
theorem toNat_glyphAddr (v : Byte) : (glyphAddr v).toNat = 5 * v.toNat := by
  rw [glyphAddr, BitVec.toNat_mul, byteWord_toNat, BitVec.toNat_ofNat]
  omega

/-- Settles O30. -/
theorem indexRegisterWrites : Obligations.IndexRegisterWrites := by
  intro nnn x s
  have hsum : (s.I + byteWord (s.getV x)).toNat = (s.I.toNat + (s.getV x).toNat) % 65536 := by
    rw [BitVec.toNat_add, byteWord_toNat]
  exact ⟨decode_encode (.ldI nnn), decode_encode (.addI x), decode_encode (.ldF x),
    ⟨_, rfl, rfl, rfl, addrWord_toNat nnn, frame_of_exec_ok (i := .ldI nnn) rfl rfl⟩,
    ⟨_, rfl, rfl, rfl, hsum, frame_of_exec_ok (i := .addI x) rfl rfl⟩,
    ⟨_, rfl, rfl, rfl, toNat_glyphAddr (s.getV x), frame_of_exec_ok (i := .ldF x) rfl rfl⟩⟩

end Sys2Proof.Machine
end

section
/-! PROOFS, family 44_display. O35 to O37: CLS, and DRW as one toggling of the pixels a sprite covers (R200, R201). -/

namespace Sys2Proof.Machine

/-- Settles O35. -/
theorem clsClearsTheFramebuffer : Obligations.ClsClearsTheFramebuffer :=
  ⟨rfl, fun _ => ⟨_, rfl, rfl, rfl, Grid.pixel_clear, frame_of_exec_ok (i := .cls) rfl rfl⟩⟩

/-! ### Toggling a set of pixels -/

/-- The drawing `e` is `d` with every pixel of `P` toggled once, each one that was set a collision (R201). -/
structure Toggles (P : Fin 32 → Fin 64 → Prop) (d e : Drawing) : Prop where
  covered : ∀ r q, P r q → e.1.pixel r q = !d.1.pixel r q
  kept : ∀ r q, ¬ P r q → e.1.pixel r q = d.1.pixel r q
  collision : e.2 = true ↔ d.2 = true ∨ ∃ r q, P r q ∧ d.1.pixel r q = true

section

variable {P Q : Fin 32 → Fin 64 → Prop} {d e f : Drawing}

theorem Toggles.congr (h : Toggles P d e) (hPQ : ∀ r q, P r q ↔ Q r q) : Toggles Q d e := by
  have hPQ : P = Q := funext fun r => funext fun q => propext (hPQ r q)
  exact hPQ ▸ h

theorem toggles_nothing (h : ∀ r q, ¬ P r q) : Toggles P d d where
  covered r q hP := absurd hP (h r q)
  kept _ _ _ := rfl
  collision := ⟨.inl, fun hor => hor.resolve_right fun ⟨r, q, hP, _⟩ => h r q hP⟩

theorem toggles_plot (d : Drawing) (r : Fin 32) (q : Fin 64) : Toggles (fun r' q' => r' = r ∧ q' = q) d (plot d r q) where
  covered := by
    rintro _ _ ⟨rfl, rfl⟩
    exact (plot_pixel ..).trans (if_pos ⟨rfl, rfl⟩)
  kept r' q' h := (plot_pixel ..).trans (if_neg h)
  collision := by simp [plot_collision]

/-- Where no pixel is toggled twice, two drawings one after the other toggle the pixels of both, and a pixel of the second
collides as it would have before the first. -/
theorem Toggles.trans (h₁ : Toggles P d e) (h₂ : Toggles Q e f) (disjoint : ∀ r q, P r q → ¬ Q r q) :
    Toggles (fun r q => P r q ∨ Q r q) d f where
  covered r q hor := by
    obtain hP | hQ := hor
    · rw [h₂.kept r q (disjoint r q hP), h₁.covered r q hP]
    · rw [h₂.covered r q hQ, h₁.kept r q fun hP => disjoint r q hP hQ]
  kept r q hnor := by
    obtain ⟨hP, hQ⟩ := not_or.mp hnor
    rw [h₂.kept r q hQ, h₁.kept r q hP]
  collision := by
    have hsame (r q) : Q r q ∧ e.1.pixel r q = true ↔ Q r q ∧ d.1.pixel r q = true :=
      and_congr_right fun hQ => by rw [h₁.kept r q fun hP => disjoint r q hP hQ]
    simp only [h₂.collision, h₁.collision, hsame, or_and_right, exists_or, or_assoc]

end

/-! ### What a sprite byte and a run of sprite bytes cover (D13) -/

/-- The columns `cs` of a sprite byte `b` on row `r` have a set bit on pixel (q, r'). -/
def ByteCovers (X : Nat) (r : Fin 32) (b : Byte) (cs : List Nat) (r' : Fin 32) (q : Fin 64) : Prop :=
  r' = r ∧ ∃ c ∈ cs, q = colOf X c ∧ b.getLsbD (7 - c) = true

/-- The sprite bytes `bs`, the first of them on sprite row `k`, have a set bit on pixel (q, r). -/
def RowsCover (X Y k : Nat) (bs : List Byte) (r : Fin 32) (q : Fin 64) : Prop :=
  ∃ i b, bs[i]? = some b ∧ ByteCovers X (rowOf Y (k + i)) b (List.range 8) r q

theorem byteCovers_cons (X : Nat) (r : Fin 32) (b : Byte) (c : Nat) (cs : List Nat) (r' : Fin 32) (q : Fin 64) :
    ByteCovers X r b (c :: cs) r' q ↔ ByteCovers X r b [c] r' q ∨ ByteCovers X r b cs r' q := by
  simp [ByteCovers, and_or_left]

theorem rowsCover_cons (X Y k : Nat) (b : Byte) (bs : List Byte) (r : Fin 32) (q : Fin 64) :
    RowsCover X Y k (b :: bs) r q ↔ ByteCovers X (rowOf Y k) b (List.range 8) r q ∨ RowsCover X Y (k + 1) bs r q := by
  have hk (i : Nat) : k + (i + 1) = k + 1 + i := by omega
  constructor
  · rintro ⟨_ | i, b', hb, hcov⟩
    · cases hb; exact .inl hcov
    · exact .inr ⟨i, b', hb, hk i ▸ hcov⟩
  · rintro (hcov | ⟨i, b', hb, hcov⟩)
    · exact ⟨0, b, rfl, hcov⟩
    · exact ⟨i + 1, b', hb, (hk i).symm ▸ hcov⟩

theorem eq_rowOf_iff (Y k : Nat) (r : Fin 32) : r = rowOf Y k ↔ (Y + k) % 32 = r.val := Fin.ext_iff.trans eq_comm
theorem eq_colOf_iff (X c : Nat) (q : Fin 64) : q = colOf X c ↔ (X + c) % 64 = q.val := Fin.ext_iff.trans eq_comm

theorem Memory.getElem?_readBytes_eq_some (m : Memory) (a n i : Nat) (b : Byte) :
    (m.readBytes a n)[i]? = some b ↔ i < n ∧ m.read (a + i) = b := by
  simp only [List.getElem?_eq_some_iff, Memory.getElem_readBytes, Memory.length_readBytes, exists_prop]

/-- The bytes at I, as DRW reads them, cover what the sprite covers (R201). -/
theorem rowsCover_readBytes (s : State) (X Y n : Nat) (r : Fin 32) (q : Fin 64) :
    RowsCover X Y 0 (s.mem.readBytes (s.ea 0) n) r q ↔ SpriteCovers s X Y n r q := by
  simp only [RowsCover, ByteCovers, SpriteCovers, Memory.getElem?_readBytes_eq_some, State.ea, eq_rowOf_iff, eq_colOf_iff,
    List.mem_range, Nat.zero_add, Nat.add_zero]
  constructor
  · rintro ⟨k, _, ⟨hk, rfl⟩, hr, j, hj, hq, hbit⟩
    exact ⟨k, hk, j, hj, hr, hq, hbit⟩
  · rintro ⟨k, hk, j, hj, hr, hq, hbit⟩
    exact ⟨k, _, ⟨hk, rfl⟩, hr, j, hj, hq, hbit⟩

/-- The eight columns of a sprite byte lie on eight different pixels, since 8 is at most 64. -/
theorem colOf_pairwise_ne (X : Nat) : (List.range 8).Pairwise fun c c' => colOf X c ≠ colOf X c' := by
  refine List.pairwise_lt_range.imp_of_mem fun hc hc' hlt heq => ?_
  have hmod : (X + _) % 64 = (X + _) % 64 := congrArg Fin.val heq
  rw [List.mem_range] at hc hc'
  omega

theorem rowOf_add_ne (Y k i : Nat) (h0 : 0 < i) (hi : i < 32) : rowOf Y (k + i) ≠ rowOf Y k := by
  simp only [rowOf, ne_eq, Fin.mk.injEq]
  omega

/-! ### Drawing toggles what the sprite covers -/

theorem toggles_drawBit (X : Nat) (r : Fin 32) (b : Byte) (c : Nat) (d : Drawing) :
    Toggles (ByteCovers X r b [c]) d (if b.getLsbD (7 - c) then plot d r (colOf X c) else d) := by
  split
  case isTrue hbit => exact (toggles_plot d r _).congr fun r' q => by simp [ByteCovers, hbit]
  case isFalse hbit => exact toggles_nothing fun r' q => by simp [ByteCovers, hbit]

theorem toggles_drawByte (X : Nat) (r : Fin 32) (b : Byte) (cs : List Nat) (d : Drawing)
    (hcs : cs.Pairwise fun c c' => colOf X c ≠ colOf X c') : Toggles (ByteCovers X r b cs) d (drawByte X r b cs d) := by
  induction cs generalizing d with
  | nil => exact toggles_nothing fun r' q => by simp [ByteCovers]
  | cons c cs ih =>
    obtain ⟨hc, hcs⟩ := List.pairwise_cons.mp hcs
    refine ((toggles_drawBit X r b c d).trans (ih _ hcs) ?_).congr fun r' q => (byteCovers_cons X r b c cs r' q).symm
    rintro r' q ⟨-, c₁, hc₁, rfl, -⟩ ⟨-, c₂, hc₂, hq, -⟩
    exact hc c₂ hc₂ (List.mem_singleton.mp hc₁ ▸ hq)

/-- At most 32 sprite bytes lie on different rows. -/
theorem toggles_drawRows (X Y k : Nat) (bs : List Byte) (d : Drawing) (hlen : bs.length ≤ 32) :
    Toggles (RowsCover X Y k bs) d (drawRows X Y k bs d) := by
  induction bs generalizing k d with
  | nil => exact toggles_nothing fun r q => by simp [RowsCover]
  | cons b bs ih =>
    have hlt : bs.length < 32 := hlen
    have hbyte := toggles_drawByte X (rowOf Y k) b _ d (colOf_pairwise_ne X)
    refine (hbyte.trans (ih (k + 1) _ hlt.le) ?_).congr fun r q => (rowsCover_cons X Y k b bs r q).symm
    rintro r q ⟨rfl, -⟩ ⟨i, b', hb, hrow, -⟩
    have hi := (List.getElem?_eq_some_iff.mp hb).1
    exact rowOf_add_ne Y k (1 + i) (by omega) (by omega) (Nat.add_assoc .. ▸ hrow).symm

theorem toggles_drawSprite (s : State) (X Y : Nat) (n : Nibble) :
    Toggles (SpriteCovers s X Y n.toNat) (s.fb, false) (drawRows X Y 0 (s.mem.readBytes (s.ea 0) n.toNat) (s.fb, false)) :=
  (toggles_drawRows X Y 0 _ _ (by rw [Memory.length_readBytes]; omega)).congr (rowsCover_readBytes s X Y n.toNat)

/-- Settles O36. -/
theorem drwXorsTheSprite : Obligations.DrwXorsTheSprite := by
  intro x y n s
  have hword := append_nibbles_eq_encodeXYN 0xD#4 x y n
  refine ⟨(congrArg decode hword).trans (decode_encode (.drw x y n)), fun hin => ?_, fun h0 hout => ?_⟩
  · have hexec := exec_drw_of_inside x y n s hin
    obtain ⟨hcovered, hkept, hcollision⟩ := toggles_drawSprite s (s.getV x).toNat (s.getV y).toNat n
    simp only [Bool.false_eq_true, false_or] at hcollision
    refine ⟨_, hexec, rfl, rfl, hcovered, hkept, fun hset => ?_, fun hunset => ?_, frame_of_exec_ok hexec rfl⟩
    · exact (State.getV_setV_self ..).trans (if_pos (hcollision.mpr hset))
    · exact (State.getV_setV_self ..).trans (if_neg (hunset ∘ hcollision.mp))
  · exact ⟨_, exec_drw_of_outside x y n s h0 hout, raise_only s _ _,
      hword ▸ raise_of_fatal s _ _ rfl, rfl⟩

/-! ### Drawing twice -/

/-- What a sprite covers is read from I and memory alone. -/
theorem spriteCovers_of_same_memory (s t : State) (hI : t.I = s.I) (hmem : ∀ a, t.mem.read a = s.mem.read a) (X Y n : Nat) :
    SpriteCovers t X Y n = SpriteCovers s X Y n := by
  unfold SpriteCovers
  simp only [hI, hmem]

/-- Settles O37: the second draw covers the same pixels as the first, each of them set before it iff unset before the first. -/
theorem drawingTwiceRestoresThePixels : Obligations.DrawingTwiceRestoresThePixels := by
  intro x y n s hx hy hin
  obtain ⟨-, hdraw, -⟩ := drwXorsTheSprite x y n s
  obtain ⟨t, hexec, herr, -, hcovered, hkept, -, -, hframe⟩ := hdraw hin
  have hX : t.getV x = s.getV x := hframe.regs x (by simpa using hx)
  have hY : t.getV y = s.getV y := hframe.regs y (by simpa using hy)
  have hI : t.I = s.I := hframe.I rfl
  have hsame := spriteCovers_of_same_memory s t hI fun a => hframe.mem a (.inr (Nat.zero_le a))
  obtain ⟨-, hdraw', -⟩ := drwXorsTheSprite x y n t
  simp only [hX, hY, hI, hsame] at hdraw'
  obtain ⟨u, hexec', herr', -, hcovered', hkept', hset, hunset, -⟩ := hdraw' hin
  refine ⟨t, u, hexec, hexec', herr, herr', Grid.ext_pixel _ _ fun r c => ?_, ?_, ?_⟩
  · by_cases hcov : SpriteCovers s (s.getV x).toNat (s.getV y).toNat n.toNat r c
    · rw [hcovered' r c hcov, hcovered r c hcov, Bool.not_not]
    · rw [hkept' r c hcov, hkept r c hcov]
  · rintro ⟨r, c, hcov, hclear⟩
    exact hset ⟨r, c, hcov, by rw [hcovered r c hcov, hclear]; rfl⟩
  · refine fun hnone => hunset fun ⟨r, c, hcov, hpix⟩ => hnone ⟨r, c, hcov, ?_⟩
    rwa [hcovered r c hcov, Bool.not_eq_true'] at hpix

end Sys2Proof.Machine
end

section
/-! PROOFS, family 45_keypad_timer. O38 to O40: the skips on a key, the moves between Vx and the timers, and the wait for a
key. -/

namespace Sys2Proof.Machine

/-- The index of a key fits a byte, so the wait leaves it whole in Vx (R225). -/
theorem toNat_keyByte (k : Fin 16) : (BitVec.ofNat 8 k.val).toNat = k.val := by
  rw [BitVec.toNat_ofNat]
  omega

/-- Settles O40: with no key pressed, the wait is a write of PC back to p. -/
theorem waitForKeyPolls : Obligations.WaitForKeyPolls := by
  intro x s
  refine ⟨decode_encode (.ldVxK x), fun k hk hlow => ?_, fun hkeys => ?_⟩
  · have hVx : ((s.advance.setV x (BitVec.ofNat 8 k.val)).getV x).toNat = k.val := by
      rw [State.getV_setV_self, toNat_keyByte]
    exact ⟨_, exec_ldVxK_of_pressed x s k (lowestKey_eq_some s k hk hlow), rfl, rfl, hVx, frame_advance_setV x _ s⟩
  · exact ⟨_, exec_ldVxK_waiting x s hkeys, rfl, rfl, frame_advance_setPC s s.PC⟩

/-- Settles O38: the key operand's range decides between the skip and the error. -/
theorem skipsOnKey : Obligations.SkipsOnKey := by
  intro x s
  refine ⟨decode_encode (.skp x), decode_encode (.sknp x), fun hkey => ⟨?_, ?_⟩, fun hno => ⟨?_, ?_⟩⟩
  · exact ⟨_, exec_skp_of_key x s hkey, advance_skipIf s Iff.rfl⟩
  · exact ⟨_, exec_sknp_of_key x s hkey, advance_skipIf s (iff_of_eq (Bool.not_eq_true' _))⟩
  · exact ⟨_, exec_skp_of_no_key x s hno, raise_only s _ _, raise_of_fatal s _ _ rfl, rfl⟩
  · exact ⟨_, exec_sknp_of_no_key x s hno, raise_only s _ _, raise_of_fatal s _ _ rfl, rfl⟩

/-- Settles O39. -/
theorem timerRegisterMoves : Obligations.TimerRegisterMoves := fun x s =>
  ⟨decode_encode (.ldVxDT x), decode_encode (.ldDT x), decode_encode (.ldST x),
    ⟨_, rfl, rfl, rfl, State.getV_setV_self .., frame_advance_setV x _ s⟩,
    ⟨_, rfl, rfl, rfl, rfl, frame_of_exec_ok (i := .ldDT x) rfl rfl⟩,
    ⟨_, rfl, rfl, rfl, rfl, frame_of_exec_ok (i := .ldST x) rfl rfl⟩⟩

end Sys2Proof.Machine
end

section
/-! PROOFS, family 60_exceptions. O11, O12, O41, O43 and O53: the error a step returns, a recoverable error, the timers, the keypad,
and the invariant through runs of host operations. -/

namespace Sys2Proof.Machine

/-! ### The invariant through the host's operations (R271, R301) -/

/-- Loaded bytes end below the end of memory, or nothing is loaded (R293). -/
theorem load_keeps_inv {s : State} (hI : Inv s) (data : List Byte) : Inv (orUnchanged s (load s data)).1 := by
  rcases Nat.lt_or_ge 4096 (512 + data.length) with h | h
  · rw [load_of_too_long s data h]
    exact hI
  · rw [load_of_fits s data h]
    exact ⟨Memory.wf_writeBytes data s.mem 512 hI.mem h, hI.fault, hI.pc⟩

theorem setKey_keeps_inv {s : State} (hI : Inv s) (index : Nat) (pressed : Bool) :
    Inv (orUnchanged s (setKey s index pressed)).1 := by
  rcases Nat.lt_or_ge index 16 with h | h
  · rw [setKey_of_lt s index pressed h]
    exact ⟨hI.mem, hI.fault, hI.pc⟩
  · rw [setKey_of_ge s index pressed h]
    exact hI

/-- The invariant speaks of none of the elements a tick writes. -/
theorem tickTimers_keeps_inv {s : State} (hI : Inv s) : Inv (tickTimers s).1 := ⟨hI.mem, hI.fault, hI.pc⟩

theorem HostOp.apply_keeps_inv (op : HostOp) {s : State} (hI : Inv s) : ∃ t r, op.apply s = .next (t, r) ∧ Inv t := by
  cases op with
  | reset => exact ⟨_, _, rfl, inv_reset s.draws⟩
  | load data => exact ⟨_, _, rfl, load_keeps_inv hI data⟩
  | setKey index pressed => exact ⟨_, _, rfl, setKey_keeps_inv hI index pressed⟩
  | tickTimers => exact ⟨_, _, rfl, tickTimers_keeps_inv hI⟩
  | framebuffer | readTimers | inspect => exact ⟨_, _, rfl, hI⟩
  | step rnd =>
    obtain ⟨t, ht, -⟩ := stepWith_err rnd s
    exact ⟨t, _, HostOp.apply_step rnd s t ht, stepWith_keeps_inv hI ht⟩

/-- Settles O53, by induction on the list of operations: each answers a state that meets the invariant again. -/
theorem hostRunsKeepTheInvariant : Obligations.HostRunsKeepTheInvariant := by
  intro ops
  induction ops with
  | nil => exact fun s hI => ⟨s, rfl, hI⟩
  | cons op ops ih =>
    intro s hI
    obtain ⟨t, r, happly, hIt⟩ := HostOp.apply_keeps_inv op hI
    obtain ⟨u, hrun, hIu⟩ := ih t hIt
    exact ⟨u, (runOps_cons op ops s t r happly).trans hrun, hIu⟩

/-! ### Recoverable errors (R244) -/

/-- The fatal codes are those R240 marks (R243). -/
theorem fatal_iff_number (c : ErrCode) : c.fatal = true ↔ c.number = 2 ∨ c.number = 5 ∨ c.number = 6 := by
  cases c <;> decide

/-- No check of a step reads what the step before it returned. -/
theorem stepError_setErr (s : State) (r : Option StepErr) : stepError { s with err := r } = stepError s := rfl

theorem raise_eq_of_recoverable (s : State) (op : Option Word) (e : StepErr) (h : e.code.fatal = false) :
    raise s op e = { s with err := some e } := by
  simp [raise, h]

/-- A recoverable error is all a step leaves: neither FAULT nor anything else is written (R242, R244). -/
theorem stepWith_of_recoverable (rnd : Byte) (s : State) (e : StepErr) (hF : s.FAULT = none) (he : stepError s = some e)
    (hrec : e.code.fatal = false) : stepWith rnd s = .next { s with err := some e } := by
  obtain ⟨t, ht, herr⟩ := stepWith_err rnd s
  rw [he] at herr
  rcases stepWith_cases rnd s t ht with ⟨f, hf, -⟩ | ⟨-, e', rfl, -, -⟩ | ⟨-, i, -, -, hok⟩
  · cases hF.symm.trans hf
  · cases herr
    rw [ht, raise_eq_of_recoverable s _ e hrec]
  · cases hok.symm.trans herr

/-- Settles O11: the checks of the next step find what they found before. -/
theorem recoverableErrorRepeats : Obligations.RecoverableErrorRepeats := by
  refine ⟨fatal_iff_number, fun s t rnd e hF ht herr hrec => ?_⟩
  obtain ⟨t', ht', herr'⟩ := stepWith_err rnd s
  cases ht.symm.trans ht'
  have he : stepError s = some e := herr'.symm.trans herr
  cases ht.symm.trans (stepWith_of_recoverable rnd s e hF he hrec)
  exact ⟨hF, rfl, fun rnd' => stepWith_of_recoverable rnd' _ e hF ((stepError_setErr s _).trans he) hrec⟩

/-! ### The order of the checks (R245) -/

/-- The error of an instruction that was run is one its own rule can raise. -/
theorem ownError_of_execWith {rnd : Byte} {i : Instr} {s t : State} {e : StepErr} (h : execWith rnd i s = .next t)
    (he : t.err = some e) : OwnError s e := by
  obtain ⟨t', ht', ⟨hok, -⟩ | ⟨e', rfl, hown⟩⟩ := execWith_cases rnd i s <;> rw [h] at ht' <;> cases ht'
  · cases hok.symm.trans he
  · cases he
    exact hown

/-- Settles O12: a step returns `stepError`, which checks in this order; past the checks it is the decoded instruction. -/
theorem errorsFollowThePriority : Obligations.ErrorsFollowThePriority := by
  intro s t rnd ht
  obtain ⟨t', ht', herr⟩ := stepWith_err rnd s
  cases ht.symm.trans ht'
  refine ⟨fun f hF => herr.trans (stepError_of_fault s f hF),
    fun hF hPC => herr.trans (stepError_of_no_fetch s hF ((fetch_eq_none s).mpr hPC)),
    fun w hF hw hd => herr.trans (stepError_of_illegal s w hF hw hd), fun w i hF hw hd => ?_⟩
  have hx : execWith rnd i s = .next t := (stepWith_of_run rnd s i (front_of_decoded s w i hF hw hd)).symm.trans ht
  exact ⟨hx, fun e he => ownError_of_execWith hx he⟩

/-! ### The timers (R260) -/

theorem tickTimers_stop_iff (s : State) : (tickTimers s).2 = true ↔ s.ST.toNat = 1 :=
  beq_iff_eq.trans BitVec.toNat_eq

/-- Settles O41. -/
theorem tickCountsTheTimersDown : Obligations.TickCountsTheTimersDown := fun s =>
  ⟨_, _, rfl, countDown_toNat s.DT, countDown_toNat s.ST, tickTimers_stop_iff s, rfl⟩

/-! ### The keypad (R265) -/

/-- A step reads the keypad and never writes it (R30). -/
theorem stepWith_key {rnd : Byte} {s t : State} (h : stepWith rnd s = .next t) : t.key = s.key := by
  rcases stepWith_cases rnd s t h with ⟨f, -, rfl⟩ | ⟨-, e, rfl, -, -⟩ | ⟨-, i, -, hx, hok⟩
  · rfl
  · rfl
  · exact (execWith_strictFrame rnd i s t hx hok).key

theorem load_key (s : State) (data : List Byte) : (orUnchanged s (load s data)).1.key = s.key := by
  rcases Nat.lt_or_ge 4096 (512 + data.length) with h | h
  · rw [load_of_too_long s data h]; rfl
  · rw [load_of_fits s data h]; rfl

/-- An operation keeps the keypad, or it is one of the two that write it. -/
theorem HostOp.apply_key {op : HostOp} {s t : State} {r : HostReply} (h : op.apply s = .next (t, r)) :
    t.key = s.key ∨ op = .reset ∨ ∃ index pressed, op = .setKey index pressed := by
  cases op with
  | reset => exact .inr (.inl rfl)
  | setKey index pressed => exact .inr (.inr ⟨index, pressed, rfl⟩)
  | load data =>
    have hst : (orUnchanged s (Machine.load s data)).1 = t := congrArg Prod.fst (Host.Outcome.next.inj h)
    exact .inl (hst ▸ load_key s data)
  | tickTimers | framebuffer | readTimers | inspect => cases h; exact .inl rfl
  | step rnd =>
    obtain ⟨t', ht', -⟩ := stepWith_err rnd s
    cases (HostOp.apply_step rnd s t' ht').symm.trans h
    exact .inl (stepWith_key ht')

theorem HostOp.apply_setKey_of_lt (s : State) (index : Nat) (pressed : Bool) (h : index < 16) :
    (HostOp.setKey index pressed).apply s = .next ({ s with key := s.key.set index pressed h }, .ok) := by
  simp only [HostOp.apply, setKey_of_lt s index pressed h, orUnchanged]

theorem HostOp.apply_setKey_of_ge (s : State) (index : Nat) (pressed : Bool) (h : 16 ≤ index) :
    (HostOp.setKey index pressed).apply s = .next (s, .hostErr (.keyArgument index)) := by
  simp only [HostOp.apply, setKey_of_ge s index pressed h, orUnchanged]

/-- Settles O43. -/
theorem setKeyWritesOneKey : Obligations.SetKeyWritesOneKey := by
  refine ⟨fun s index pressed => ⟨fun hlt => ?_, HostOp.apply_setKey_of_ge s index pressed⟩,
    fun op s t r h hne => (HostOp.apply_key h).resolve_left hne⟩
  exact ⟨_, HostOp.apply_setKey_of_lt s index pressed hlt, Vector.getElem?_set_self hlt,
    fun j hj => Vector.getElem?_set_ne hlt hj.symm, rfl⟩

end Sys2Proof.Machine
end

section
/-! PROOFS, family 70_reset_and_hazards. O44 and O45: load, which copies all of its data or nothing, and reset. -/

namespace Sys2Proof.Machine

/-! ### Loading a program (R293, R294) -/

theorem HostOp.apply_load_of_fits (s : State) (data : List Byte) (h : 512 + data.length ≤ 4096) :
    (HostOp.load data).apply s = .next (s.setMem (s.mem.writeBytes 512 data), .ok) := by
  simp only [HostOp.apply, load_of_fits s data h, orUnchanged]

theorem HostOp.apply_load_of_too_long (s : State) (data : List Byte) (h : 4096 < 512 + data.length) :
    (HostOp.load data).apply s = .next (s, .hostErr (.capacity data.length)) := by
  simp only [HostOp.apply, load_of_too_long s data h, orUnchanged]

/-- Settles O44: 3584 bytes are what memory holds from 512 on. -/
theorem loadCopiesOrRejectsWhole : Obligations.LoadCopiesOrRejectsWhole := by
  refine fun s data => ⟨fun hfits => ?_, fun hlong => HostOp.apply_load_of_too_long s data (by omega)⟩
  refine ⟨_, HostOp.apply_load_of_fits s data (by omega), fun k hk => ?_, fun a ha => ?_, rfl⟩
  · rw [List.getElem?_eq_getElem hk]
    exact congrArg some (s.mem.read_writeBytes_inside 512 k data hk)
  · exact s.mem.read_writeBytes_outside data 512 a ha

/-! ### Reset (R291) -/

/-- What reset keeps of the old state is its draws, which inspect does not show. -/
theorem inspect_resetVM (s : State) : inspect (resetVM s) = inspect newVM := rfl

/-- Settles O45. -/
theorem resetGivesTheNewState : Obligations.ResetGivesTheNewState := fun s => ⟨resetVM s, rfl, inspect_resetVM s⟩

end Sys2Proof.Machine
end
